-- ==== Sys2Proof/Word.lean ====
section
/-! DEFINITION. The word types of the CORE: data width 8 bits, CPU and PPU address width 16 bits (spec/00_scope.md R7). -/

namespace Sys2Proof

/-- A byte: registers A, X, Y, SP, P and every memory cell (R7, R11). -/
abbrev Byte := BitVec 8

/-- A 16-bit word: the program counter, CPU addresses and PPU addresses (R7, R11). -/
abbrev Addr := BitVec 16

end Sys2Proof
end

