-- ==== Sys2Proof/Machine/Bits.lean ====
section
/-! DEFINITION. Byte and word helpers in the notation of spec/00_scope.md R11. -/

namespace Sys2Proof.Machine

/-- The word `{h, l}` (R11). -/
def word (h l : Byte) : Addr := h ++ l

/-- `hi(w)`, bits 15:8 (R11). -/
def hiByte (w : Addr) : Byte := w.extractLsb' 8 8

/-- `lo(w)`, bits 7:0 (R11). -/
def loByte (w : Addr) : Byte := w.extractLsb' 0 8

/-- `zext_16(b)` (R11). -/
def zext (b : Byte) : Addr := b.setWidth 16

/-- `sext_16(b)` (R11). -/
def sext (b : Byte) : Addr := b.signExtend 16

end Sys2Proof.Machine
end

