-- ==== Sys2Proof/AddrMode.lean ====
section
/-! DEFINITION. The operand forms of spec/30_encoding.md R121 and the addressing-mode tags of R127, as types. -/

namespace Sys2Proof

/-- The ten addressing-mode tags of R127. -/
inductive ModeTag
  | immediate
  | zeroPage
  | zeroPageX
  | zeroPageY
  | absolute
  | absoluteX
  | absoluteY
  | indirectX
  | indirectY
  | none
deriving DecidableEq, Repr

/-- The operand of an instruction that computes with a byte: one constructor for each format of R121
that has such an operand, holding the operand bytes. A two-byte operand is the little-endian word
of its bytes (R126). -/
inductive Operand
  /-- Format ACC: the accumulator itself; only the shifts and rotates have it (R234). -/
  | acc
  /-- Format IMM: the operand byte is the value. -/
  | imm (v : Byte)
  /-- Format ZP: zero page. -/
  | zp (z : Byte)
  /-- Format ZPX: zero page indexed by X. -/
  | zpx (z : Byte)
  /-- Format ZPY: zero page indexed by Y. -/
  | zpy (z : Byte)
  /-- Format ABS. -/
  | abs (w : Addr)
  /-- Format ABSX: absolute indexed by X. -/
  | absx (w : Addr)
  /-- Format ABSY: absolute indexed by Y. -/
  | absy (w : Addr)
  /-- Format INDX: pointer in the zero page, indexed by X before the dereference. -/
  | indx (z : Byte)
  /-- Format INDY: pointer in the zero page, indexed by Y after the dereference. -/
  | indy (z : Byte)
deriving DecidableEq, Repr

end Sys2Proof
end

