-- ==== Sys2Proof/Syntax.lean ====
section
/-! DEFINITION. The instructions of spec/opcode_table.json (spec/30_encoding.md R123 to R125).

One constructor for each mnemonic, split where the table's rows follow different rules (JMP absolute R280 and JMP
indirect R281, NOP R289 and its illegal variants R300, SBC R201 and its alias $EB R311). The addressing mode is the
operand. Where the table has several bytes for one mnemonic and mode, the opcode byte is a field, so that each of the
256 rows is an instruction value of its own. Which operands and bytes a constructor admits is WellFormed.lean's. -/

namespace Sys2Proof

inductive Instr
  -- loads, stores, transfers (spec/41_load_store_transfer.md)
  | lda (m : Operand)
  | ldx (m : Operand)
  | ldy (m : Operand)
  | sta (m : Operand)
  | stx (m : Operand)
  | sty (m : Operand)
  | tax
  | tay
  | txa
  | tya
  | tsx
  | txs
  -- arithmetic, logic, compares, increments (spec/42_arithmetic_logic.md)
  | adc (m : Operand)
  | sbc (m : Operand)
  | and (m : Operand)
  | ora (m : Operand)
  | eor (m : Operand)
  | bit (m : Operand)
  | cmp (m : Operand)
  | cpx (m : Operand)
  | cpy (m : Operand)
  | inc (m : Operand)
  | dec (m : Operand)
  | inx
  | iny
  | dex
  | dey
  -- shifts and rotates (spec/43_shifts_rotates.md)
  | asl (m : Operand)
  | lsr (m : Operand)
  | rol (m : Operand)
  | ror (m : Operand)
  -- stack and subroutines (spec/44_stack_subroutine.md)
  | pha
  | pla
  | php
  | plp
  | jsr (t : Addr)
  | rts
  | rti
  -- conditional branches (spec/45_branches.md); `d` is the signed displacement byte
  | bcc (d : Byte)
  | bcs (d : Byte)
  | beq (d : Byte)
  | bmi (d : Byte)
  | bne (d : Byte)
  | bpl (d : Byte)
  | bvc (d : Byte)
  | bvs (d : Byte)
  -- jumps, flag instructions, NOP, BRK (spec/46_jumps_flags_system.md)
  | jmp (t : Addr)
  | jmpInd (ptr : Addr)
  | clc
  | sec
  | cli
  | sei
  | cld
  | sed
  | clv
  | nop
  | brk
  -- implemented illegal opcodes (spec/47_illegal_opcodes.md); `opc` is the opcode byte where several share a form
  | nopIllegal (opc : Byte)
  | skb (opc : Byte) (v : Byte)
  | ign (opc : Byte) (m : Operand)
  | lax (m : Operand)
  | sax (m : Operand)
  | dcp (m : Operand)
  | isc (m : Operand)
  | anc (opc : Byte) (v : Byte)
  | alr (v : Byte)
  | arr (v : Byte)
  | axs (v : Byte)
  | sbcAlias (v : Byte)
  | las (w : Addr)
  | ahx (m : Operand)
  | shx (w : Addr)
  | shy (w : Addr)
  | tas (w : Addr)
  | kil (opc : Byte)
  -- the unassigned bytes (R125)
  | unknown (opc : Byte)
deriving DecidableEq, Repr

end Sys2Proof
end

