-- ==== Sys2Proof/WellFormed.lean ====
section
/-! DEFINITION. Which instruction values have an encoding: the operand forms each mnemonic admits (the columns of
spec/30_encoding.md R123 and R124) and the opcode bytes of the constructors that carry one. -/

namespace Sys2Proof

/-- The modes of LDA, ADC, SBC, AND, ORA, EOR and CMP: IMM ZP ZPX ABS ABSX ABSY INDX INDY. -/
def Operand.aluMode : Operand → Bool
  | .imm _ | .zp _ | .zpx _ | .abs _ | .absx _ | .absy _ | .indx _ | .indy _ => true
  | .acc | .zpy _ => false

/-- The modes of LDX: IMM ZP ZPY ABS ABSY (R181). -/
def Operand.ldxMode : Operand → Bool
  | .imm _ | .zp _ | .zpy _ | .abs _ | .absy _ => true
  | .acc | .zpx _ | .absx _ | .indx _ | .indy _ => false

/-- The modes of LDY: IMM ZP ZPX ABS ABSX (R182). -/
def Operand.ldyMode : Operand → Bool
  | .imm _ | .zp _ | .zpx _ | .abs _ | .absx _ => true
  | .acc | .zpy _ | .absy _ | .indx _ | .indy _ => false

/-- The modes of STA: ZP ZPX ABS ABSX ABSY INDX INDY, no immediate form (R183). -/
def Operand.staMode : Operand → Bool
  | .zp _ | .zpx _ | .abs _ | .absx _ | .absy _ | .indx _ | .indy _ => true
  | .acc | .imm _ | .zpy _ => false

/-- The modes of STX: ZP ZPY ABS (R184). -/
def Operand.stxMode : Operand → Bool
  | .zp _ | .zpy _ | .abs _ => true
  | .acc | .imm _ | .zpx _ | .absx _ | .absy _ | .indx _ | .indy _ => false

/-- The modes of STY: ZP ZPX ABS (R185). -/
def Operand.styMode : Operand → Bool
  | .zp _ | .zpx _ | .abs _ => true
  | .acc | .imm _ | .zpy _ | .absx _ | .absy _ | .indx _ | .indy _ => false

/-- The modes of BIT: ZP ABS (R205). -/
def Operand.bitMode : Operand → Bool
  | .zp _ | .abs _ => true
  | .acc | .imm _ | .zpx _ | .zpy _ | .absx _ | .absy _ | .indx _ | .indy _ => false

/-- The modes of CPX and CPY: IMM ZP ABS (R207, R208). -/
def Operand.cpMode : Operand → Bool
  | .imm _ | .zp _ | .abs _ => true
  | .acc | .zpx _ | .zpy _ | .absx _ | .absy _ | .indx _ | .indy _ => false

/-- The modes of INC and DEC: ZP ZPX ABS ABSX (R209, R210). -/
def Operand.incMode : Operand → Bool
  | .zp _ | .zpx _ | .abs _ | .absx _ => true
  | .acc | .imm _ | .zpy _ | .absy _ | .indx _ | .indy _ => false

/-- The modes of the shifts: ACC ZP ZPX ABS ABSX (R234). -/
def Operand.shiftMode : Operand → Bool
  | .acc | .zp _ | .zpx _ | .abs _ | .absx _ => true
  | .imm _ | .zpy _ | .absy _ | .indx _ | .indy _ => false

/-- The modes of LAX: ZP ZPY ABS ABSY INDX INDY (R303). -/
def Operand.laxMode : Operand → Bool
  | .zp _ | .zpy _ | .abs _ | .absy _ | .indx _ | .indy _ => true
  | .acc | .imm _ | .zpx _ | .absx _ => false

/-- The modes of SAX: ZP ZPY ABS INDX (R304). -/
def Operand.saxMode : Operand → Bool
  | .zp _ | .zpy _ | .abs _ | .indx _ => true
  | .acc | .imm _ | .zpx _ | .absx _ | .absy _ | .indy _ => false

/-- The modes of DCP and ISC: ZP ZPX ABS ABSX ABSY INDX INDY (R305, R306). -/
def Operand.dcpMode : Operand → Bool
  | .zp _ | .zpx _ | .abs _ | .absx _ | .absy _ | .indx _ | .indy _ => true
  | .acc | .imm _ | .zpy _ => false

/-- The modes of AHX: INDY ABSY (R313). -/
def Operand.ahxMode : Operand → Bool
  | .indy _ | .absy _ => true
  | .acc | .imm _ | .zp _ | .zpx _ | .zpy _ | .abs _ | .absx _ | .indx _ => false

/-- The six 1-byte illegal NOPs (R300). -/
def nopIllegalBytes : List Byte := [0x1A, 0x3A, 0x5A, 0x7A, 0xDA, 0xFA]

/-- The five SKB bytes (R301). -/
def skbBytes : List Byte := [0x80, 0x82, 0x89, 0xC2, 0xE2]

/-- The IGN bytes that go with an operand form (R302). -/
def ignBytes : Operand → List Byte
  | .abs _ => [0x0C]
  | .absx _ => [0x1C, 0x3C, 0x5C, 0x7C, 0xDC, 0xFC]
  | .zp _ => [0x04, 0x44, 0x64]
  | .zpx _ => [0x14, 0x34, 0x54, 0x74, 0xD4, 0xF4]
  | .acc | .imm _ | .zpy _ | .absy _ | .indx _ | .indy _ => []

/-- The two ANC bytes (R307). -/
def ancBytes : List Byte := [0x0B, 0x2B]

/-- The twelve KIL bytes (R317). -/
def kilBytes : List Byte :=
  [0x02, 0x12, 0x22, 0x32, 0x42, 0x52, 0x62, 0x72, 0x92, 0xB2, 0xD2, 0xF2]

/-- The thirty bytes without a descriptor (R125). -/
def unassignedBytes : List Byte :=
  [0x03, 0x07, 0x0F, 0x13, 0x17, 0x1B, 0x1F, 0x23, 0x27, 0x2F, 0x33, 0x37, 0x3B, 0x3F] ++
  [0x43, 0x47, 0x4F, 0x53, 0x57, 0x5B, 0x5F, 0x63, 0x67, 0x6F, 0x73, 0x77, 0x7B, 0x7F] ++
  [0x8B, 0xAB]

/-- The instruction has an encoding (R123, R124), or stands for an unassigned byte (R125). Operand
bytes have no reserved values (R130). -/
def Instr.wf : Instr → Bool
  | .lda m | .adc m | .sbc m | .and m | .ora m | .eor m | .cmp m => m.aluMode
  | .ldx m => m.ldxMode
  | .ldy m => m.ldyMode
  | .sta m => m.staMode
  | .stx m => m.stxMode
  | .sty m => m.styMode
  | .bit m => m.bitMode
  | .cpx m | .cpy m => m.cpMode
  | .inc m | .dec m => m.incMode
  | .asl m | .lsr m | .rol m | .ror m => m.shiftMode
  | .lax m => m.laxMode
  | .sax m => m.saxMode
  | .dcp m | .isc m => m.dcpMode
  | .ahx m => m.ahxMode
  | .nopIllegal opc => nopIllegalBytes.contains opc
  | .skb opc _ => skbBytes.contains opc
  | .ign opc m => (ignBytes m).contains opc
  | .anc opc _ => ancBytes.contains opc
  | .kil opc => kilBytes.contains opc
  | .unknown opc => unassignedBytes.contains opc
  | .tax | .tay | .txa | .tya | .tsx | .txs => true
  | .inx | .iny | .dex | .dey => true
  | .pha | .pla | .php | .plp | .jsr _ | .rts | .rti => true
  | .bcc _ | .bcs _ | .beq _ | .bmi _ | .bne _ | .bpl _ | .bvc _ | .bvs _ => true
  | .jmp _ | .jmpInd _ => true
  | .clc | .sec | .cli | .sei | .cld | .sed | .clv | .nop | .brk => true
  | .alr _ | .arr _ | .axs _ | .sbcAlias _ | .las _ | .shx _ | .shy _ | .tas _ => true

end Sys2Proof
end

