-- ==== Sys2Proof/Decode.lean ====
section
/-! DEFINITION. The decoder, total on byte lists, and the encoder (spec/30_encoding.md R120 to R128).

The decoder is the 16 x 16 opcode map of R123 to R125, one function for each row of the map. Every opcode byte decodes: an
unassigned byte decodes to `Instr.unknown`, whose meaning is the fatal of R125. -/

namespace Sys2Proof

/-- Why a list of bytes does not decode. -/
inductive DecodeError
  /-- There is no opcode byte. -/
  | noOpcode
  /-- The opcode byte `opc` is there and not all of its operand bytes are. -/
  | missingOperand (opc : Byte)
deriving DecidableEq, Repr

/-- Row 0x of the opcode map (R123 to R125). -/
def opcodeRow0 (b1 b2 : Byte) : Nat → Instr
  | 0x0 => .brk
  | 0x1 => .ora (.indx b1)
  | 0x2 => .kil 0x02
  | 0x3 => .unknown 0x03
  | 0x4 => .ign 0x04 (.zp b1)
  | 0x5 => .ora (.zp b1)
  | 0x6 => .asl (.zp b1)
  | 0x7 => .unknown 0x07
  | 0x8 => .php
  | 0x9 => .ora (.imm b1)
  | 0xA => .asl .acc
  | 0xB => .anc 0x0B b1
  | 0xC => .ign 0x0C (.abs (Machine.word b2 b1))
  | 0xD => .ora (.abs (Machine.word b2 b1))
  | 0xE => .asl (.abs (Machine.word b2 b1))
  | _ => .unknown 0x0F

/-- Row 1x of the opcode map (R123 to R125). -/
def opcodeRow1 (b1 b2 : Byte) : Nat → Instr
  | 0x0 => .bpl b1
  | 0x1 => .ora (.indy b1)
  | 0x2 => .kil 0x12
  | 0x3 => .unknown 0x13
  | 0x4 => .ign 0x14 (.zpx b1)
  | 0x5 => .ora (.zpx b1)
  | 0x6 => .asl (.zpx b1)
  | 0x7 => .unknown 0x17
  | 0x8 => .clc
  | 0x9 => .ora (.absy (Machine.word b2 b1))
  | 0xA => .nopIllegal 0x1A
  | 0xB => .unknown 0x1B
  | 0xC => .ign 0x1C (.absx (Machine.word b2 b1))
  | 0xD => .ora (.absx (Machine.word b2 b1))
  | 0xE => .asl (.absx (Machine.word b2 b1))
  | _ => .unknown 0x1F

/-- Row 2x of the opcode map (R123 to R125). -/
def opcodeRow2 (b1 b2 : Byte) : Nat → Instr
  | 0x0 => .jsr (Machine.word b2 b1)
  | 0x1 => .and (.indx b1)
  | 0x2 => .kil 0x22
  | 0x3 => .unknown 0x23
  | 0x4 => .bit (.zp b1)
  | 0x5 => .and (.zp b1)
  | 0x6 => .rol (.zp b1)
  | 0x7 => .unknown 0x27
  | 0x8 => .plp
  | 0x9 => .and (.imm b1)
  | 0xA => .rol .acc
  | 0xB => .anc 0x2B b1
  | 0xC => .bit (.abs (Machine.word b2 b1))
  | 0xD => .and (.abs (Machine.word b2 b1))
  | 0xE => .rol (.abs (Machine.word b2 b1))
  | _ => .unknown 0x2F

/-- Row 3x of the opcode map (R123 to R125). -/
def opcodeRow3 (b1 b2 : Byte) : Nat → Instr
  | 0x0 => .bmi b1
  | 0x1 => .and (.indy b1)
  | 0x2 => .kil 0x32
  | 0x3 => .unknown 0x33
  | 0x4 => .ign 0x34 (.zpx b1)
  | 0x5 => .and (.zpx b1)
  | 0x6 => .rol (.zpx b1)
  | 0x7 => .unknown 0x37
  | 0x8 => .sec
  | 0x9 => .and (.absy (Machine.word b2 b1))
  | 0xA => .nopIllegal 0x3A
  | 0xB => .unknown 0x3B
  | 0xC => .ign 0x3C (.absx (Machine.word b2 b1))
  | 0xD => .and (.absx (Machine.word b2 b1))
  | 0xE => .rol (.absx (Machine.word b2 b1))
  | _ => .unknown 0x3F

/-- Row 4x of the opcode map (R123 to R125). -/
def opcodeRow4 (b1 b2 : Byte) : Nat → Instr
  | 0x0 => .rti
  | 0x1 => .eor (.indx b1)
  | 0x2 => .kil 0x42
  | 0x3 => .unknown 0x43
  | 0x4 => .ign 0x44 (.zp b1)
  | 0x5 => .eor (.zp b1)
  | 0x6 => .lsr (.zp b1)
  | 0x7 => .unknown 0x47
  | 0x8 => .pha
  | 0x9 => .eor (.imm b1)
  | 0xA => .lsr .acc
  | 0xB => .alr b1
  | 0xC => .jmp (Machine.word b2 b1)
  | 0xD => .eor (.abs (Machine.word b2 b1))
  | 0xE => .lsr (.abs (Machine.word b2 b1))
  | _ => .unknown 0x4F

/-- Row 5x of the opcode map (R123 to R125). -/
def opcodeRow5 (b1 b2 : Byte) : Nat → Instr
  | 0x0 => .bvc b1
  | 0x1 => .eor (.indy b1)
  | 0x2 => .kil 0x52
  | 0x3 => .unknown 0x53
  | 0x4 => .ign 0x54 (.zpx b1)
  | 0x5 => .eor (.zpx b1)
  | 0x6 => .lsr (.zpx b1)
  | 0x7 => .unknown 0x57
  | 0x8 => .cli
  | 0x9 => .eor (.absy (Machine.word b2 b1))
  | 0xA => .nopIllegal 0x5A
  | 0xB => .unknown 0x5B
  | 0xC => .ign 0x5C (.absx (Machine.word b2 b1))
  | 0xD => .eor (.absx (Machine.word b2 b1))
  | 0xE => .lsr (.absx (Machine.word b2 b1))
  | _ => .unknown 0x5F

/-- Row 6x of the opcode map (R123 to R125). -/
def opcodeRow6 (b1 b2 : Byte) : Nat → Instr
  | 0x0 => .rts
  | 0x1 => .adc (.indx b1)
  | 0x2 => .kil 0x62
  | 0x3 => .unknown 0x63
  | 0x4 => .ign 0x64 (.zp b1)
  | 0x5 => .adc (.zp b1)
  | 0x6 => .ror (.zp b1)
  | 0x7 => .unknown 0x67
  | 0x8 => .pla
  | 0x9 => .adc (.imm b1)
  | 0xA => .ror .acc
  | 0xB => .arr b1
  | 0xC => .jmpInd (Machine.word b2 b1)
  | 0xD => .adc (.abs (Machine.word b2 b1))
  | 0xE => .ror (.abs (Machine.word b2 b1))
  | _ => .unknown 0x6F

/-- Row 7x of the opcode map (R123 to R125). -/
def opcodeRow7 (b1 b2 : Byte) : Nat → Instr
  | 0x0 => .bvs b1
  | 0x1 => .adc (.indy b1)
  | 0x2 => .kil 0x72
  | 0x3 => .unknown 0x73
  | 0x4 => .ign 0x74 (.zpx b1)
  | 0x5 => .adc (.zpx b1)
  | 0x6 => .ror (.zpx b1)
  | 0x7 => .unknown 0x77
  | 0x8 => .sei
  | 0x9 => .adc (.absy (Machine.word b2 b1))
  | 0xA => .nopIllegal 0x7A
  | 0xB => .unknown 0x7B
  | 0xC => .ign 0x7C (.absx (Machine.word b2 b1))
  | 0xD => .adc (.absx (Machine.word b2 b1))
  | 0xE => .ror (.absx (Machine.word b2 b1))
  | _ => .unknown 0x7F

/-- Row 8x of the opcode map (R123 to R125). -/
def opcodeRow8 (b1 b2 : Byte) : Nat → Instr
  | 0x0 => .skb 0x80 b1
  | 0x1 => .sta (.indx b1)
  | 0x2 => .skb 0x82 b1
  | 0x3 => .sax (.indx b1)
  | 0x4 => .sty (.zp b1)
  | 0x5 => .sta (.zp b1)
  | 0x6 => .stx (.zp b1)
  | 0x7 => .sax (.zp b1)
  | 0x8 => .dey
  | 0x9 => .skb 0x89 b1
  | 0xA => .txa
  | 0xB => .unknown 0x8B
  | 0xC => .sty (.abs (Machine.word b2 b1))
  | 0xD => .sta (.abs (Machine.word b2 b1))
  | 0xE => .stx (.abs (Machine.word b2 b1))
  | _ => .sax (.abs (Machine.word b2 b1))

/-- Row 9x of the opcode map (R123 to R125). -/
def opcodeRow9 (b1 b2 : Byte) : Nat → Instr
  | 0x0 => .bcc b1
  | 0x1 => .sta (.indy b1)
  | 0x2 => .kil 0x92
  | 0x3 => .ahx (.indy b1)
  | 0x4 => .sty (.zpx b1)
  | 0x5 => .sta (.zpx b1)
  | 0x6 => .stx (.zpy b1)
  | 0x7 => .sax (.zpy b1)
  | 0x8 => .tya
  | 0x9 => .sta (.absy (Machine.word b2 b1))
  | 0xA => .txs
  | 0xB => .tas (Machine.word b2 b1)
  | 0xC => .shy (Machine.word b2 b1)
  | 0xD => .sta (.absx (Machine.word b2 b1))
  | 0xE => .shx (Machine.word b2 b1)
  | _ => .ahx (.absy (Machine.word b2 b1))

/-- Row Ax of the opcode map (R123 to R125). -/
def opcodeRowA (b1 b2 : Byte) : Nat → Instr
  | 0x0 => .ldy (.imm b1)
  | 0x1 => .lda (.indx b1)
  | 0x2 => .ldx (.imm b1)
  | 0x3 => .lax (.indx b1)
  | 0x4 => .ldy (.zp b1)
  | 0x5 => .lda (.zp b1)
  | 0x6 => .ldx (.zp b1)
  | 0x7 => .lax (.zp b1)
  | 0x8 => .tay
  | 0x9 => .lda (.imm b1)
  | 0xA => .tax
  | 0xB => .unknown 0xAB
  | 0xC => .ldy (.abs (Machine.word b2 b1))
  | 0xD => .lda (.abs (Machine.word b2 b1))
  | 0xE => .ldx (.abs (Machine.word b2 b1))
  | _ => .lax (.abs (Machine.word b2 b1))

/-- Row Bx of the opcode map (R123 to R125). -/
def opcodeRowB (b1 b2 : Byte) : Nat → Instr
  | 0x0 => .bcs b1
  | 0x1 => .lda (.indy b1)
  | 0x2 => .kil 0xB2
  | 0x3 => .lax (.indy b1)
  | 0x4 => .ldy (.zpx b1)
  | 0x5 => .lda (.zpx b1)
  | 0x6 => .ldx (.zpy b1)
  | 0x7 => .lax (.zpy b1)
  | 0x8 => .clv
  | 0x9 => .lda (.absy (Machine.word b2 b1))
  | 0xA => .tsx
  | 0xB => .las (Machine.word b2 b1)
  | 0xC => .ldy (.absx (Machine.word b2 b1))
  | 0xD => .lda (.absx (Machine.word b2 b1))
  | 0xE => .ldx (.absy (Machine.word b2 b1))
  | _ => .lax (.absy (Machine.word b2 b1))

/-- Row Cx of the opcode map (R123 to R125). -/
def opcodeRowC (b1 b2 : Byte) : Nat → Instr
  | 0x0 => .cpy (.imm b1)
  | 0x1 => .cmp (.indx b1)
  | 0x2 => .skb 0xC2 b1
  | 0x3 => .dcp (.indx b1)
  | 0x4 => .cpy (.zp b1)
  | 0x5 => .cmp (.zp b1)
  | 0x6 => .dec (.zp b1)
  | 0x7 => .dcp (.zp b1)
  | 0x8 => .iny
  | 0x9 => .cmp (.imm b1)
  | 0xA => .dex
  | 0xB => .axs b1
  | 0xC => .cpy (.abs (Machine.word b2 b1))
  | 0xD => .cmp (.abs (Machine.word b2 b1))
  | 0xE => .dec (.abs (Machine.word b2 b1))
  | _ => .dcp (.abs (Machine.word b2 b1))

/-- Row Dx of the opcode map (R123 to R125). -/
def opcodeRowD (b1 b2 : Byte) : Nat → Instr
  | 0x0 => .bne b1
  | 0x1 => .cmp (.indy b1)
  | 0x2 => .kil 0xD2
  | 0x3 => .dcp (.indy b1)
  | 0x4 => .ign 0xD4 (.zpx b1)
  | 0x5 => .cmp (.zpx b1)
  | 0x6 => .dec (.zpx b1)
  | 0x7 => .dcp (.zpx b1)
  | 0x8 => .cld
  | 0x9 => .cmp (.absy (Machine.word b2 b1))
  | 0xA => .nopIllegal 0xDA
  | 0xB => .dcp (.absy (Machine.word b2 b1))
  | 0xC => .ign 0xDC (.absx (Machine.word b2 b1))
  | 0xD => .cmp (.absx (Machine.word b2 b1))
  | 0xE => .dec (.absx (Machine.word b2 b1))
  | _ => .dcp (.absx (Machine.word b2 b1))

/-- Row Ex of the opcode map (R123 to R125). -/
def opcodeRowE (b1 b2 : Byte) : Nat → Instr
  | 0x0 => .cpx (.imm b1)
  | 0x1 => .sbc (.indx b1)
  | 0x2 => .skb 0xE2 b1
  | 0x3 => .isc (.indx b1)
  | 0x4 => .cpx (.zp b1)
  | 0x5 => .sbc (.zp b1)
  | 0x6 => .inc (.zp b1)
  | 0x7 => .isc (.zp b1)
  | 0x8 => .inx
  | 0x9 => .sbc (.imm b1)
  | 0xA => .nop
  | 0xB => .sbcAlias b1
  | 0xC => .cpx (.abs (Machine.word b2 b1))
  | 0xD => .sbc (.abs (Machine.word b2 b1))
  | 0xE => .inc (.abs (Machine.word b2 b1))
  | _ => .isc (.abs (Machine.word b2 b1))

/-- Row Fx of the opcode map (R123 to R125). -/
def opcodeRowF (b1 b2 : Byte) : Nat → Instr
  | 0x0 => .beq b1
  | 0x1 => .sbc (.indy b1)
  | 0x2 => .kil 0xF2
  | 0x3 => .isc (.indy b1)
  | 0x4 => .ign 0xF4 (.zpx b1)
  | 0x5 => .sbc (.zpx b1)
  | 0x6 => .inc (.zpx b1)
  | 0x7 => .isc (.zpx b1)
  | 0x8 => .sed
  | 0x9 => .sbc (.absy (Machine.word b2 b1))
  | 0xA => .nopIllegal 0xFA
  | 0xB => .isc (.absy (Machine.word b2 b1))
  | 0xC => .ign 0xFC (.absx (Machine.word b2 b1))
  | 0xD => .sbc (.absx (Machine.word b2 b1))
  | 0xE => .inc (.absx (Machine.word b2 b1))
  | _ => .isc (.absx (Machine.word b2 b1))

/-- The instruction that opcode byte `opc` with operand bytes `b1`, `b2` stands for: the whole map
of R123 to R125. A shorter instruction ignores the bytes it does not have. -/
def instrAt (opc b1 b2 : Byte) : Instr :=
  match opc.toNat / 16 with
  | 0x0 => opcodeRow0 b1 b2 (opc.toNat % 16)
  | 0x1 => opcodeRow1 b1 b2 (opc.toNat % 16)
  | 0x2 => opcodeRow2 b1 b2 (opc.toNat % 16)
  | 0x3 => opcodeRow3 b1 b2 (opc.toNat % 16)
  | 0x4 => opcodeRow4 b1 b2 (opc.toNat % 16)
  | 0x5 => opcodeRow5 b1 b2 (opc.toNat % 16)
  | 0x6 => opcodeRow6 b1 b2 (opc.toNat % 16)
  | 0x7 => opcodeRow7 b1 b2 (opc.toNat % 16)
  | 0x8 => opcodeRow8 b1 b2 (opc.toNat % 16)
  | 0x9 => opcodeRow9 b1 b2 (opc.toNat % 16)
  | 0xA => opcodeRowA b1 b2 (opc.toNat % 16)
  | 0xB => opcodeRowB b1 b2 (opc.toNat % 16)
  | 0xC => opcodeRowC b1 b2 (opc.toNat % 16)
  | 0xD => opcodeRowD b1 b2 (opc.toNat % 16)
  | 0xE => opcodeRowE b1 b2 (opc.toNat % 16)
  | _ => opcodeRowF b1 b2 (opc.toNat % 16)

/-- How many bytes the instruction with this operand has: the opcode and 0, 1 or 2 operand bytes (R121). -/
def Operand.length : Operand → Nat
  | .acc => 1
  | .imm _ | .zp _ | .zpx _ | .zpy _ | .indx _ | .indy _ => 2
  | .abs _ | .absx _ | .absy _ => 3

/-- The length of an instruction in bytes (R120, R121). -/
def Instr.length : Instr → Nat
  | .lda m | .ldx m | .ldy m | .sta m | .stx m | .sty m => m.length
  | .adc m | .sbc m | .and m | .ora m | .eor m | .bit m => m.length
  | .cmp m | .cpx m | .cpy m | .inc m | .dec m => m.length
  | .asl m | .lsr m | .rol m | .ror m => m.length
  | .ign _ m | .lax m | .sax m | .dcp m | .isc m | .ahx m => m.length
  | .skb _ _ | .anc _ _ | .alr _ | .arr _ | .axs _ | .sbcAlias _ => 2
  | .bcc _ | .bcs _ | .beq _ | .bmi _ | .bne _ | .bpl _ | .bvc _ | .bvs _ => 2
  | .jsr _ | .jmp _ | .jmpInd _ | .las _ | .shx _ | .shy _ | .tas _ => 3
  | .tax | .tay | .txa | .tya | .tsx | .txs | .inx | .iny | .dex | .dey => 1
  | .pha | .pla | .php | .plp | .rts | .rti => 1
  | .clc | .sec | .cli | .sei | .cld | .sed | .clv | .nop | .brk => 1
  | .nopIllegal _ | .kil _ | .unknown _ => 1

/-- The length that the opcode byte alone fixes (R120). -/
def lengthAt (opc : Byte) : Nat := (instrAt opc 0 0).length

/-- The decoder: the first instruction of a byte list and the bytes after it, or the reason there
is none. -/
def decode : List Byte → Except DecodeError (Instr × List Byte)
  | [] => .error .noOpcode
  | opc :: rest =>
    match lengthAt opc, rest with
    | 1, rest => .ok (instrAt opc 0 0, rest)
    | 2, b1 :: rest => .ok (instrAt opc b1 0, rest)
    | 3, b1 :: b2 :: rest => .ok (instrAt opc b1 b2, rest)
    | _, _ => .error (.missingOperand opc)

/-- The addressing-mode tag of an operand (R121, R127): format ACC has the tag None. -/
def Operand.tag : Operand → ModeTag
  | .acc => .none
  | .imm _ => .immediate
  | .zp _ => .zeroPage
  | .zpx _ => .zeroPageX
  | .zpy _ => .zeroPageY
  | .abs _ => .absolute
  | .absx _ => .absoluteX
  | .absy _ => .absoluteY
  | .indx _ => .indirectX
  | .indy _ => .indirectY

/-- The addressing-mode tag of an instruction's descriptor (R122, R127): JMP absolute and JSR carry
Absolute; the branches, JMP indirect and the instructions without operand carry None. -/
def Instr.tag : Instr → ModeTag
  | .lda m | .ldx m | .ldy m | .sta m | .stx m | .sty m => m.tag
  | .adc m | .sbc m | .and m | .ora m | .eor m | .bit m => m.tag
  | .cmp m | .cpx m | .cpy m | .inc m | .dec m => m.tag
  | .asl m | .lsr m | .rol m | .ror m => m.tag
  | .ign _ m | .lax m | .sax m | .dcp m | .isc m | .ahx m => m.tag
  | .skb _ _ | .anc _ _ | .alr _ | .arr _ | .axs _ | .sbcAlias _ => .immediate
  | .jsr _ | .jmp _ => .absolute
  | .las _ | .shx _ | .tas _ => .absoluteY
  | .shy _ => .absoluteX
  | .bcc _ | .bcs _ | .beq _ | .bmi _ | .bne _ | .bpl _ | .bvc _ | .bvs _ => .none
  | .jmpInd _ => .none
  | .tax | .tay | .txa | .tya | .tsx | .txs | .inx | .iny | .dex | .dey => .none
  | .pha | .pla | .php | .plp | .rts | .rti => .none
  | .clc | .sec | .cli | .sei | .cld | .sed | .clv | .nop | .brk => .none
  | .nopIllegal _ | .kil _ | .unknown _ => .none

/-- One line of the tables of R123 and R124: the byte in the operand's column, the columns being
IMM, ZP, ZPX, ZPY, ABS, ABSX, ABSY, INDX, INDY and ACC. -/
def Operand.pick (imm zp zpx zpy abs absx absy indx indy acc : Option Byte) :
    Operand → Option Byte
  | .imm _ => imm
  | .zp _ => zp
  | .zpx _ => zpx
  | .zpy _ => zpy
  | .abs _ => abs
  | .absx _ => absx
  | .absy _ => absy
  | .indx _ => indx
  | .indy _ => indy
  | .acc => acc

/-- The opcode byte of an instruction by the tables of R123 and R124; none for an operand form the
mnemonic does not have. -/
def Instr.opcode : Instr → Option Byte
  | .lda m => m.pick (some 0xA9) (some 0xA5) (some 0xB5) none (some 0xAD) (some 0xBD) (some 0xB9) (some 0xA1) (some 0xB1) none
  | .ldx m => m.pick (some 0xA2) (some 0xA6) none (some 0xB6) (some 0xAE) none (some 0xBE) none none none
  | .ldy m => m.pick (some 0xA0) (some 0xA4) (some 0xB4) none (some 0xAC) (some 0xBC) none none none none
  | .sta m => m.pick none (some 0x85) (some 0x95) none (some 0x8D) (some 0x9D) (some 0x99) (some 0x81) (some 0x91) none
  | .stx m => m.pick none (some 0x86) none (some 0x96) (some 0x8E) none none none none none
  | .sty m => m.pick none (some 0x84) (some 0x94) none (some 0x8C) none none none none none
  | .adc m => m.pick (some 0x69) (some 0x65) (some 0x75) none (some 0x6D) (some 0x7D) (some 0x79) (some 0x61) (some 0x71) none
  | .sbc m => m.pick (some 0xE9) (some 0xE5) (some 0xF5) none (some 0xED) (some 0xFD) (some 0xF9) (some 0xE1) (some 0xF1) none
  | .and m => m.pick (some 0x29) (some 0x25) (some 0x35) none (some 0x2D) (some 0x3D) (some 0x39) (some 0x21) (some 0x31) none
  | .ora m => m.pick (some 0x09) (some 0x05) (some 0x15) none (some 0x0D) (some 0x1D) (some 0x19) (some 0x01) (some 0x11) none
  | .eor m => m.pick (some 0x49) (some 0x45) (some 0x55) none (some 0x4D) (some 0x5D) (some 0x59) (some 0x41) (some 0x51) none
  | .bit m => m.pick none (some 0x24) none none (some 0x2C) none none none none none
  | .cmp m => m.pick (some 0xC9) (some 0xC5) (some 0xD5) none (some 0xCD) (some 0xDD) (some 0xD9) (some 0xC1) (some 0xD1) none
  | .cpx m => m.pick (some 0xE0) (some 0xE4) none none (some 0xEC) none none none none none
  | .cpy m => m.pick (some 0xC0) (some 0xC4) none none (some 0xCC) none none none none none
  | .inc m => m.pick none (some 0xE6) (some 0xF6) none (some 0xEE) (some 0xFE) none none none none
  | .dec m => m.pick none (some 0xC6) (some 0xD6) none (some 0xCE) (some 0xDE) none none none none
  | .asl m => m.pick none (some 0x06) (some 0x16) none (some 0x0E) (some 0x1E) none none none (some 0x0A)
  | .lsr m => m.pick none (some 0x46) (some 0x56) none (some 0x4E) (some 0x5E) none none none (some 0x4A)
  | .rol m => m.pick none (some 0x26) (some 0x36) none (some 0x2E) (some 0x3E) none none none (some 0x2A)
  | .ror m => m.pick none (some 0x66) (some 0x76) none (some 0x6E) (some 0x7E) none none none (some 0x6A)
  | .lax m => m.pick none (some 0xA7) none (some 0xB7) (some 0xAF) none (some 0xBF) (some 0xA3) (some 0xB3) none
  | .sax m => m.pick none (some 0x87) none (some 0x97) (some 0x8F) none none (some 0x83) none none
  | .dcp m => m.pick none (some 0xC7) (some 0xD7) none (some 0xCF) (some 0xDF) (some 0xDB) (some 0xC3) (some 0xD3) none
  | .isc m => m.pick none (some 0xE7) (some 0xF7) none (some 0xEF) (some 0xFF) (some 0xFB) (some 0xE3) (some 0xF3) none
  | .ahx m => m.pick none none none none none none (some 0x9F) none (some 0x93) none
  | .brk => some 0x00
  | .php => some 0x08
  | .bpl _ => some 0x10
  | .clc => some 0x18
  | .jsr _ => some 0x20
  | .plp => some 0x28
  | .bmi _ => some 0x30
  | .sec => some 0x38
  | .rti => some 0x40
  | .pha => some 0x48
  | .alr _ => some 0x4B
  | .jmp _ => some 0x4C
  | .bvc _ => some 0x50
  | .cli => some 0x58
  | .rts => some 0x60
  | .pla => some 0x68
  | .arr _ => some 0x6B
  | .jmpInd _ => some 0x6C
  | .bvs _ => some 0x70
  | .sei => some 0x78
  | .dey => some 0x88
  | .txa => some 0x8A
  | .bcc _ => some 0x90
  | .tya => some 0x98
  | .txs => some 0x9A
  | .tas _ => some 0x9B
  | .shy _ => some 0x9C
  | .shx _ => some 0x9E
  | .tay => some 0xA8
  | .tax => some 0xAA
  | .bcs _ => some 0xB0
  | .clv => some 0xB8
  | .tsx => some 0xBA
  | .las _ => some 0xBB
  | .iny => some 0xC8
  | .dex => some 0xCA
  | .axs _ => some 0xCB
  | .bne _ => some 0xD0
  | .cld => some 0xD8
  | .inx => some 0xE8
  | .nop => some 0xEA
  | .sbcAlias _ => some 0xEB
  | .beq _ => some 0xF0
  | .sed => some 0xF8
  | .nopIllegal opc | .skb opc _ | .ign opc _ | .anc opc _ | .kil opc | .unknown opc => some opc

/-- The two bytes of a word operand, low byte first (R126). -/
def wordBytes (w : Addr) : List Byte := [Machine.loByte w, Machine.hiByte w]

/-- The operand bytes of an operand form (R121, R126). -/
def Operand.bytes : Operand → List Byte
  | .acc => []
  | .imm b | .zp b | .zpx b | .zpy b | .indx b | .indy b => [b]
  | .abs w | .absx w | .absy w => wordBytes w

/-- The operand bytes of an instruction (R121, R126). -/
def Instr.operandBytes : Instr → List Byte
  | .lda m | .ldx m | .ldy m | .sta m | .stx m | .sty m => m.bytes
  | .adc m | .sbc m | .and m | .ora m | .eor m | .bit m => m.bytes
  | .cmp m | .cpx m | .cpy m | .inc m | .dec m => m.bytes
  | .asl m | .lsr m | .rol m | .ror m => m.bytes
  | .ign _ m | .lax m | .sax m | .dcp m | .isc m | .ahx m => m.bytes
  | .skb _ v | .anc _ v | .alr v | .arr v | .axs v | .sbcAlias v => [v]
  | .bcc d | .bcs d | .beq d | .bmi d | .bne d | .bpl d | .bvc d | .bvs d => [d]
  | .jsr w | .jmp w | .jmpInd w | .las w | .shx w | .shy w | .tas w => wordBytes w
  | .tax | .tay | .txa | .tya | .tsx | .txs | .inx | .iny | .dex | .dey => []
  | .pha | .pla | .php | .plp | .rts | .rti => []
  | .clc | .sec | .cli | .sei | .cld | .sed | .clv | .nop | .brk => []
  | .nopIllegal _ | .kil _ | .unknown _ => []

/-- The bytes of a well-formed instruction, opcode first (R120); empty for a form without encoding. -/
def encode (i : Instr) : List Byte :=
  match i.opcode with
  | some opc => opc :: i.operandBytes
  | none => []

/-- The instruction the decoder reads from an instruction whose bits are `w`, bit 0 the least
significant bit of the opcode byte, the operand bytes above it; bits from `nbits` on are zero. -/
def decodeTableWord (nbits w : Nat) : Option Instr :=
  let v := w % 2 ^ nbits
  let bytes := [BitVec.ofNat 8 v, BitVec.ofNat 8 (v / 2 ^ 8), BitVec.ofNat 8 (v / 2 ^ 16)]
  match decode bytes with
  | .ok (i, _) => some i
  | .error _ => none

end Sys2Proof
end

