-- ==== Sys2Proof/Config.lean ====
section
/-! DEFINITION. What an implementation fixes: the cartridge parameters of spec/00_scope.md R8, and how a byte array is held.

The cartridge is configuration, not state, in the spec (R8, R20). The machine's State carries it as a component that no
step writes (log 2), so that a statement about every state is a statement about every cartridge. The open parameter `HOST`
(R9) is a function of the state, so `Config.hostCall` stands after State, in Machine/HostOps.lean. -/

namespace Sys2Proof

/-- A byte array as (index, byte) pairs, indices strictly rising, no pair equal to what an unlisted
index reads as (`Machine.Memory.wf`). -/
abbrev Machine.Memory := List Host.Cell

/-- `MIRRORING` (R8, spec/10_state.md R45). -/
inductive Mirroring
  | horizontal
  | vertical
  | fourScreen
deriving DecidableEq, Repr

/-- `PRG_BANKS`: the spec admits 1 and 2 only (R8, D14). -/
inductive PrgBanks
  | one
  | two
deriving DecidableEq, Repr

/-- The size of PRG ROM in bytes: 16,384 for each bank (R8). -/
def PrgBanks.size : PrgBanks → Nat
  | .one => 16384
  | .two => 32768

/-- The cartridge (R8): fixed at construction, immutable afterwards. -/
structure Cartridge where
  /-- `PRG_BANKS`. -/
  prgBanks : PrgBanks
  /-- `PRG_ROM`, indices below `prgBanks.size`. -/
  prg : Machine.Memory
  /-- `CHR_BANKS`. -/
  chrBanks : Nat
  /-- `CHR_ROM`, indices below 8,192 for each bank. -/
  chr : Machine.Memory
  /-- `MIRRORING`. -/
  mirroring : Mirroring
  /-- `MAPPER`; only 0 is in scope (D29). -/
  mapper : Byte
deriving DecidableEq, Repr

/-- DESIGN CHOICE (log 2, unsafe): the cartridge of `State.reset` is the default of
spec/92_eei_decisions.md "Open parameters": one PRG bank, all 0x00 but the reset vector $0600 in its
last bytes, one CHR bank of 0x00, Horizontal mirroring, mapper 0. -/
def Config.defaultCartridge : Cartridge :=
  { prgBanks := .one
    prg := [(0x3FFD, 0x06)]
    chrBanks := 1
    chr := []
    mirroring := .horizontal
    mapper := 0 }

end Sys2Proof
end

