-- ==== Sys2Proof/Machine/State.lean ====
section
/-! DEFINITION. The machine's state (spec/10_state.md R20), its faults (spec/60_exceptions.md R341) and its reset value
(spec/70_reset_and_hazards.md R372). Plain data throughout. -/

namespace Sys2Proof.Machine

/-- The fatal causes of R341 with their `info`. Raising one ends the run (R343); the machine state
after it is unspecified, so the outcome carries none. Each is safe: the model stops where the
hardware terminates. -/
inductive Fault
  /-- Cause 1: a bus read of a write-only register, of $2004, of $4014 or of an unmapped address.
  Raised by any fetch, pointer or data read. Safe. -/
  | busReadViolation (addr : Addr)
  /-- Cause 2: a bus write to PRG ROM, $2002, $2003, $2004, $4014 or an unmapped address. Raised by
  any store. Safe. -/
  | busWriteViolation (addr : Addr)
  /-- Cause 3: a data-port write with `ppu_addr` in $0000 to $1FFF. Safe. -/
  | ppuChrWrite (ppuAddr : Addr)
  /-- Cause 4: a data-port access with `ppu_addr` in $3000 to $3EFF. Safe. -/
  | ppuUnusedRange (ppuAddr : Addr)
  /-- Cause 5: a data-port access with `ppu_addr` at or above $4000. Safe. -/
  | ppuAddrOutOfRange (ppuAddr : Addr)
  /-- Cause 6: a data-port read in $0000 to $1FFF where there is no CHR byte. Safe. -/
  | ppuChrOutOfRange (ppuAddr : Addr)
  /-- Cause 7: a data-port access in $2000 to $2FFF whose mirrored index is 2,048 or more. Safe. -/
  | ppuVramIndexOutOfRange (ppuAddr : Addr)
  /-- Cause 8: the fetched opcode byte has no row in the opcode table; raised by `execUnknown`. Safe. -/
  | unknownOpcode (opc : Byte) (addr : Addr)
  /-- Cause 9: a KIL opcode; raised by `execKil`. Safe. -/
  | kil (opc : Byte) (addr : Addr)
  /-- Cause 10: the resolver is called for an operand without address; no well-formed instruction
  raises it. Safe. -/
  | resolveNone (addr : Addr)
deriving DecidableEq, Repr

/-- Why the model gives an instruction no meaning. -/
inductive Refusal
  /-- The instruction of this mnemonic has no meaning in the model; raised by `exec`'s arm. Safe. -/
  | notModelled (mnemonic : String)
deriving DecidableEq, Repr

/-- What one step or one instruction answers. -/
abbrev Result (σ : Type) := Host.Outcome σ Fault Refusal

/-- The flags of P (R26). -/
inductive Flag
  | c
  | z
  | i
  | d
  | b1
  | b2
  | v
  | n
deriving DecidableEq, Repr

/-- `addr_latch` (R36): which half of `ppu_addr` the next write to $2006 fills. -/
inductive AddrLatch
  | hi
  | lo
deriving DecidableEq, Repr

/-- `scroll_latch` (R39): which of the two the next write to $2005 fills. -/
inductive ScrollLatch
  | x
  | y
deriving DecidableEq, Repr

/-- The eight PPU registers of the CPU map (spec/20_memory.md R61). -/
inductive PpuReg
  | ctrl
  | mask
  | status
  | oamAddr
  | oamData
  | scroll
  | addr
  | data
deriving DecidableEq, Repr

/-- The PPU register file (R36 to R43). -/
structure Ppu where
  addr : Addr
  addrLatch : AddrLatch
  ctrl : Byte
  mask : Byte
  scrollX : Byte
  scrollY : Byte
  scrollLatch : ScrollLatch
  readBuffer : Byte
  vram : Memory
  palette : Memory
  oam : Memory
deriving DecidableEq, Repr

/-- `run` (R48). -/
inductive RunState
  | running
  | halted
  | fatal (f : Fault)
deriving DecidableEq, Repr

/-- One effect of a call of the host callback (spec/00_scope.md R9, D23): it writes one piece of the state
that R20 lists (spec/60_exceptions.md R346: the callback "may change any state"), makes one bus access
through the CPU, or calls `reset` (spec/70_reset_and_hazards.md R373). A cell of `cpu_ram` is written by
the bus. The cartridge is configuration, which nothing writes (R8). -/
inductive HostAct
  | setA (v : Byte)
  | setX (v : Byte)
  | setY (v : Byte)
  | setSp (v : Byte)
  | setP (v : Byte)
  | setPc (w : Addr)
  | setPpuAddr (w : Addr)
  | setAddrLatch (l : AddrLatch)
  | setPpuCtrl (v : Byte)
  | setPpuMask (v : Byte)
  | setScrollX (v : Byte)
  | setScrollY (v : Byte)
  | setScrollLatch (l : ScrollLatch)
  | setReadBuffer (v : Byte)
  | setVram (k : Fin 2048) (v : Byte)
  | setPalette (k : Fin 32) (v : Byte)
  | setOam (k : Fin 256) (v : Byte)
  | setRun (r : RunState)
  | busRead (addr : Addr)
  | busWrite (addr : Addr) (v : Byte)
  | reset
deriving DecidableEq, Repr

/-- `HOST` (spec/00_scope.md R9, D23), the callback before each fetch, as plain data (DESIGN CHOICE, log 4). -/
inductive Callback
  /-- The effects of each coming call are given, one list for each; the identity once they are used up. -/
  | listed (calls : List (List HostAct))
  /-- Any function, or relation, of the machine state: call number `call` has the effects that the open
  parameter `Config.hostCall` gives for the number and the state the call sees. -/
  | free (call : Nat)
deriving DecidableEq, Repr

/-- `HOST` = identity, the default (D23). -/
abbrev Callback.identity : Callback := .listed []

/-- The whole state of the CORE (R20), the configuration it runs with, and the host callback. -/
structure State where
  /-- `A` (R21). -/
  a : Byte
  /-- `X` (R22). -/
  x : Byte
  /-- `Y` (R23). -/
  y : Byte
  /-- `SP` (R24). -/
  sp : Byte
  /-- `P` (R26). -/
  p : Byte
  /-- `PC` (R25): between steps the address of the next opcode byte. -/
  pc : Addr
  /-- `cpu_ram` (R46). -/
  cpuRam : Memory
  /-- The PPU register file. -/
  ppu : Ppu
  /-- `run` (R48). -/
  run : RunState
  /-- The cartridge (R8), written by no step. -/
  cart : Cartridge
  /-- `HOST`, the callback before each fetch (R9). -/
  host : Callback
deriving DecidableEq, Repr

/-- The PPU register file as constructed (spec/10_state.md R52, D2) over given array contents (D1). -/
def Ppu.powerOn (vram palette oam : Memory) : Ppu :=
  { addr := 0x0000
    addrLatch := .hi
    ctrl := 0x00
    mask := 0x00
    scrollX := 0x00
    scrollY := 0x00
    scrollLatch := .x
    readBuffer := 0x00
    vram := vram
    palette := palette
    oam := oam }

/-- The initial state of a run (spec/70_reset_and_hazards.md R372): power-on with a cartridge and
the `INIT` arrays, then `reset`, with the callback `host` (R9). The two bytes at $FFFC, read from PRG ROM, are given as `vector`. -/
def State.launch (cart : Cartridge) (vector : Addr) (ram vram palette oam : Memory)
    (host : Callback) : State :=
  { a := 0x00
    x := 0x00
    y := 0x00
    sp := 0xFD
    p := 0x24
    pc := vector
    cpuRam := ram
    ppu := Ppu.powerOn vram palette oam
    run := .running
    cart := cart
    host := host }

/-- The machine right after reset (R372), with the default cartridge, whose vector bytes are $0600
(log 2), and with the open `INIT` arrays all 0x00 (DESIGN CHOICE, log 1, unsafe). `HOST` is the identity,
its default (R9). -/
def State.reset : State := State.launch Config.defaultCartridge 0x0600 [] [] [] [] .identity

end Sys2Proof.Machine
end

