-- ==== Sys2Proof/Machine/Ops.lean ====
section
/-! DEFINITION. The named operations over memory and registers: byte arrays, the PPU data port, the bus router
(spec/20_memory.md), the stack primitives (spec/44_stack_subroutine.md R240 to R243), the clean stop and the raising of a
fatal (spec/60_exceptions.md R340, R343), and the advance of PC (spec/40_step_and_addressing.md R150). -/

namespace Sys2Proof.Machine

/-! ### Byte arrays -/

/-- What an unlisted index of any byte array reads as (DESIGN CHOICE, log 1: the spec leaves the
power-on contents open, D1). -/
def unlisted : Byte := 0x00

/-- The byte at index `k`. -/
def Memory.read : Memory → Nat → Byte
  | [], _ => unlisted
  | (j, w) :: rest, k => if k = j then w else Memory.read rest k

/-- The array with the byte at index `k` set to `v`, in canonical form if it was. -/
def Memory.write : Memory → Nat → Byte → Memory
  | [], k, v => if v = unlisted then [] else [(k, v)]
  | (j, w) :: rest, k, v =>
    if k < j then
      if v = unlisted then (j, w) :: rest else (k, v) :: (j, w) :: rest
    else if k = j then
      if v = unlisted then rest else (k, v) :: rest
    else (j, w) :: Memory.write rest k v

/-- Canonical form: indices strictly rising, no entry equal to what an unlisted index reads as. -/
def Memory.wf : Memory → Bool
  | [] => true
  | [(_, v)] => v != unlisted
  | (j, v) :: (k, w) :: rest => v != unlisted && decide (j < k) && Memory.wf ((k, w) :: rest)

/-- Every listed index is below `n`. -/
def Memory.below (n : Nat) (m : Memory) : Bool := m.all fun c => decide (c.1 < n)

/-! ### Fatals and the clean stop -/

/-- `raise Fatal(cause, info)` (spec/00_scope.md R14, spec/60_exceptions.md R343): the step ends at
once. -/
def raiseFatal {α : Type} (f : Fault) : Except Fault α := .error f

/-- The code of a fatal cause (R341). -/
def Fault.code : Fault → Nat
  | .busReadViolation _ => 1
  | .busWriteViolation _ => 2
  | .ppuChrWrite _ => 3
  | .ppuUnusedRange _ => 4
  | .ppuAddrOutOfRange _ => 5
  | .ppuChrOutOfRange _ => 6
  | .ppuVramIndexOutOfRange _ => 7
  | .unknownOpcode _ _ => 8
  | .kil _ _ => 9
  | .resolveNone _ => 10

/-- `halt` (R14, spec/46_jumps_flags_system.md R290). -/
def haltRun (s : State) : State := { s with run := .halted }

/-- What an instruction answers: the next state, or the fatal it raised. -/
def finish (r : Except Fault State) : Result State :=
  match r with
  | .ok s => .next s
  | .error f => .fault f

/-- PC moves on by `n` bytes, modulo 65,536 (spec/40_step_and_addressing.md R150, spec/10_state.md R25). -/
def advance (n : Nat) (s : State) : State := { s with pc := s.pc + BitVec.ofNat 16 n }

/-! ### CPU RAM and PRG ROM -/

/-- The cell of `cpu_ram` that a CPU address below $2000 reaches: mask 0x07FF (R66). -/
def ramIndex (addr : Addr) : Nat := (addr &&& 0x07FF).toNat

/-- The byte of `cpu_ram` at a CPU address (R66). -/
def ramRead (addr : Addr) (s : State) : Byte := s.cpuRam.read (ramIndex addr)

/-- Storing a byte in `cpu_ram` at a CPU address (R66). -/
def ramWrite (addr : Addr) (v : Byte) (s : State) : State :=
  { s with cpuRam := s.cpuRam.write (ramIndex addr) v }

/-- The index into `PRG_ROM` of a CPU address from $8000 on; one bank mirrors (R98). -/
def prgIndex (banks : PrgBanks) (addr : Addr) : Nat :=
  let off := addr - 0x8000
  match banks with
  | .one => (off &&& 0x3FFF).toNat
  | .two => off.toNat

/-- The PRG ROM byte at a CPU address from $8000 on (R98). -/
def prgRead (cart : Cartridge) (addr : Addr) : Byte := cart.prg.read (prgIndex cart.prgBanks addr)

/-! ### The PPU data port -/

/-- `Inc()`: 32 if bit 2 of `ppu_ctrl` is 1, else 1 (R86). -/
def Ppu.increment (u : Ppu) : Addr := if u.ctrl.getLsbD 2 then 32 else 1

/-- The auto-increment after a data-port access that completes (R86). -/
def Ppu.bump (u : Ppu) : Ppu := { u with addr := u.addr + u.increment }

/-- `ChrRead(a)` (R88): only the bytes the cartridge has. -/
def chrRead (cart : Cartridge) (a : Addr) : Except Fault Byte :=
  if a.toNat < 8192 * cart.chrBanks then .ok (cart.chr.read a.toNat)
  else raiseFatal (.ppuChrOutOfRange a)

/-- `NT_MAP`: the physical nametable of logical nametable `nt` (R92). -/
def ntMap : Mirroring → Nat → Option Nat
  | .vertical, 0 | .vertical, 2 => some 0
  | .vertical, 1 | .vertical, 3 => some 1
  | .horizontal, 0 | .horizontal, 1 => some 0
  | .horizontal, 2 | .horizontal, 3 => some 1
  | .fourScreen, 0 => some 0
  | .fourScreen, 1 => some 1
  | .fourScreen, 2 => some 2
  | .fourScreen, 3 => some 3
  | _, _ => none

/-- `mirror_vram_addr(a)` (R92). Its legal domain is $2000 to $3EFF; an address that the formula
takes to no nametable gives none (log 11). -/
def mirrorVramAddr (mir : Mirroring) (a : Addr) : Option Nat :=
  let idx := ((a &&& 0x2FFF) - 0x2000).toNat
  (ntMap mir (idx / 1024)).map fun phys => phys * 0x400 + idx % 1024

/-- `VramIndex(a)` (R89): the mirrored index if it lies inside `vram`. -/
def vramIndex (mir : Mirroring) (a : Addr) : Except Fault Nat :=
  match mirrorVramAddr mir a with
  | some k => if k < 2048 then .ok k else raiseFatal (.ppuVramIndexOutOfRange a)
  | none => raiseFatal (.ppuVramIndexOutOfRange a)

/-- `PalIndex(a)` (R96): the low five bits, the four aliases folded down by 0x10. -/
def palIndex (a : Addr) : Nat :=
  let i := (a &&& 0x1F).toNat
  if i = 0x10 ∨ i = 0x14 ∨ i = 0x18 ∨ i = 0x1C then i - 0x10 else i

/-- `DataRead()` (R84, R86 to R90, R95). -/
def dataRead (cart : Cartridge) (u : Ppu) : Except Fault (Byte × Ppu) :=
  if u.addr ≤ 0x1FFF then do
    let v ← chrRead cart u.addr
    .ok (u.readBuffer, { u.bump with readBuffer := v })
  else if u.addr ≤ 0x2FFF then do
    let k ← vramIndex cart.mirroring u.addr
    .ok (u.readBuffer, { u.bump with readBuffer := u.vram.read k })
  else if u.addr ≤ 0x3EFF then raiseFatal (.ppuUnusedRange u.addr)
  else if u.addr ≤ 0x3FFF then .ok (u.palette.read (palIndex u.addr), u.bump)
  else raiseFatal (.ppuAddrOutOfRange u.addr)

/-- `DataWrite(v)` (R85 to R87, R91, R93 to R95). -/
def dataWrite (cart : Cartridge) (v : Byte) (u : Ppu) : Except Fault Ppu :=
  if u.addr ≤ 0x1FFF then raiseFatal (.ppuChrWrite u.addr)
  else if u.addr ≤ 0x2FFF then do
    let k ← vramIndex cart.mirroring u.addr
    .ok { u.bump with vram := u.vram.write k v }
  else if u.addr ≤ 0x3EFF then raiseFatal (.ppuUnusedRange u.addr)
  else if u.addr ≤ 0x3FFF then .ok { u.bump with palette := u.palette.write (palIndex u.addr) v }
  else raiseFatal (.ppuAddrOutOfRange u.addr)

/-! ### The PPU registers in the CPU map -/

/-- The register a CPU address in $2000 to $3FFF selects: `addr & 0x2007`, equivalently bits 2:0 (R67). -/
def ppuReg (addr : Addr) : PpuReg :=
  match (addr &&& 0x0007).toNat with
  | 0 => .ctrl
  | 1 => .mask
  | 2 => .status
  | 3 => .oamAddr
  | 4 => .oamData
  | 5 => .scroll
  | 6 => .addr
  | _ => .data

/-- `write_scroll(u8)` (R75). -/
def Ppu.writeScroll (v : Byte) (u : Ppu) : Ppu :=
  match u.scrollLatch with
  | .x => { u with scrollX := v, scrollLatch := .y }
  | .y => { u with scrollY := v, scrollLatch := .x }

/-- `write_addr(u8)` (R76): high half first. -/
def Ppu.writeAddr (v : Byte) (u : Ppu) : Ppu :=
  match u.addrLatch with
  | .hi => { u with addr := word v (loByte u.addr), addrLatch := .lo }
  | .lo => { u with addr := word (hiByte u.addr) v, addrLatch := .hi }

/-- `PpuRegRead` (R70 to R77); the `info` of a fatal is the original address (R67). -/
def ppuRegRead (addr : Addr) (s : State) : Except Fault (Byte × State) :=
  match ppuReg addr with
  | .status => .ok (0x00, s)
  | .data => do
    let (v, u) ← dataRead s.cart s.ppu
    .ok (v, { s with ppu := u })
  | .ctrl | .mask | .oamAddr | .oamData | .scroll | .addr => raiseFatal (.busReadViolation addr)

/-- `PpuRegWrite` (R70 to R77); the `info` of a fatal is the original address (R67). -/
def ppuRegWrite (addr : Addr) (v : Byte) (s : State) : Except Fault State :=
  match ppuReg addr with
  | .ctrl => .ok { s with ppu := { s.ppu with ctrl := v } }
  | .mask => .ok { s with ppu := { s.ppu with mask := v } }
  | .scroll => .ok { s with ppu := s.ppu.writeScroll v }
  | .addr => .ok { s with ppu := s.ppu.writeAddr v }
  | .data => do
    let u ← dataWrite s.cart v s.ppu
    .ok { s with ppu := u }
  | .status | .oamAddr | .oamData => raiseFatal (.busWriteViolation addr)

/-! ### The bus -/

/-- `MemRead(addr, 1)` (R62): the byte, and the state after the read's side effects. -/
def busRead (addr : Addr) (s : State) : Except Fault (Byte × State) :=
  if addr ≤ 0x1FFF then .ok (ramRead addr s, s)
  else if addr ≤ 0x3FFF then ppuRegRead addr s
  else if 0x8000 ≤ addr then .ok (prgRead s.cart addr, s)
  else raiseFatal (.busReadViolation addr)

/-- `MemWrite(addr, 1, v)` (R63). -/
def busWrite (addr : Addr) (v : Byte) (s : State) : Except Fault State :=
  if addr ≤ 0x1FFF then .ok (ramWrite addr v s)
  else if addr ≤ 0x3FFF then ppuRegWrite addr v s
  else raiseFatal (.busWriteViolation addr)

/-- `MemRead(addr, 2)` (R64): low byte first, the second address modulo 65,536. -/
def busReadWord (addr : Addr) (s : State) : Except Fault (Addr × State) := do
  let (l, s1) ← busRead addr s
  let (h, s2) ← busRead (addr + 1) s1
  .ok (word h l, s2)

/-- `MemWrite(addr, 2, w)` (R65): low byte first. No instruction uses it. -/
def busWriteWord (addr : Addr) (w : Addr) (s : State) : Except Fault State := do
  let s1 ← busWrite addr (loByte w) s
  busWrite (addr + 1) (hiByte w) s1

/-- `Peek(addr)` (R108), the read without side effects: what `MemRead` returns for RAM and PRG ROM;
the spec gives it no value elsewhere (log 12). -/
def peek (addr : Addr) (s : State) : Option Byte :=
  if addr ≤ 0x1FFF then some (ramRead addr s)
  else if 0x8000 ≤ addr then some (prgRead s.cart addr)
  else none

/-- Placing a byte from outside the machine where a fetch at `addr` reads it: in `cpu_ram`, or in the
cartridge's PRG ROM (log 3). Elsewhere there is no storage and nothing changes. -/
def placeByte (addr : Addr) (v : Byte) (s : State) : State :=
  if addr ≤ 0x1FFF then ramWrite addr v s
  else if 0x8000 ≤ addr then
    { s with
      cart := { s.cart with prg := s.cart.prg.write (prgIndex s.cart.prgBanks addr) v } }
  else s

/-! ### The stack -/

/-- The stack address of SP, the word `{0x01, SP}` (spec/10_state.md R24). -/
def stackAddr (sp : Byte) : Addr := word 0x01 sp

/-- `Push(v)` (R240): write at the stack address, then decrement SP modulo 256. The address always
lies in `cpu_ram`, so a push never faults. -/
def push (v : Byte) (s : State) : State :=
  { ramWrite (stackAddr s.sp) v s with sp := s.sp - 1 }

/-- `Pop()` (R241): increment SP modulo 256, then read. -/
def pop (s : State) : Byte × State :=
  let s1 := { s with sp := s.sp + 1 }
  (ramRead (stackAddr s1.sp) s1, s1)

/-- `PushWord(w)` (R242): high byte first. -/
def pushWord (w : Addr) (s : State) : State := push (loByte w) (push (hiByte w) s)

/-- `PopWord()` (R243): low byte first. -/
def popWord (s : State) : Addr × State :=
  let (l, s1) := pop s
  let (h, s2) := pop s1
  (word h l, s2)

end Sys2Proof.Machine
end

