-- ==== Sys2Proof/Machine/Flags.lean ====
section
/-! DEFINITION. The status register and every flag computation: spec/10_state.md R26 to R35, spec/42_arithmetic_logic.md
R206 and R216, the push and pop forms of P (spec/44_stack_subroutine.md R246, R247). -/

namespace Sys2Proof.Machine

/-- The bit position of a flag in P (R26). -/
def Flag.bit : Flag → Nat
  | .c => 0
  | .z => 1
  | .i => 2
  | .d => 3
  | .b1 => 4
  | .b2 => 5
  | .v => 6
  | .n => 7

/-- The mask of a flag in P (R26). -/
def Flag.mask (f : Flag) : Byte := 1#8 <<< f.bit

/-- A flag of the status byte `p`. -/
def flag (p : Byte) (f : Flag) : Bool := p.getLsbD f.bit

/-- The status byte `p` with the flag `f` set to `b` and every other bit kept. -/
def putFlag (p : Byte) (f : Flag) (b : Bool) : Byte :=
  if b then p ||| f.mask else p &&& ~~~f.mask

/-- A flag of the machine's P set to `b`. -/
def setFlag (f : Flag) (b : Bool) (s : State) : State := { s with p := putFlag s.p f b }

/-- `SetZN(v)` (spec/00_scope.md R12): Z is `v == 0`, N is bit 7 of `v`. -/
def setZN (v : Byte) (s : State) : State :=
  { s with p := putFlag (putFlag s.p .z (v == 0)) .n (v.getLsbD 7) }

/-- The carry flag as a bit of a byte, 0 or 1. -/
def carryByte (p : Byte) : Byte := if flag p .c then 1 else 0

/-- `AddToA(v)` (R216): the binary adder of ADC, SBC, ISC and SBC $EB. It does not read D (R215). -/
def addToA (v : Byte) (s : State) : State :=
  let sum := s.a.toNat + v.toNat + (carryByte s.p).toNat
  let r := BitVec.ofNat 8 sum
  let p1 := putFlag s.p .c (decide (0xFF < sum))
  let p2 := putFlag p1 .v (((v ^^^ r) &&& (s.a ^^^ r) &&& 0x80) != 0)
  setZN r { s with a := r, p := p2 }

/-- `Compare(r, m)` (R206): C is `r ≥ m`, Z and N come from `r - m`; no register is written. -/
def compare (r m : Byte) (s : State) : State :=
  setZN (r - m) (setFlag .c (decide (m ≤ r)) s)

/-- The byte PHP pushes: P with B1 and B2 forced on (R246). -/
def statusPushed (p : Byte) : Byte := p ||| 0x30

/-- What PLP and RTI make of the popped byte: bit 4 becomes 0, bit 5 becomes 1 (R247, D24). -/
def statusPopped (v : Byte) : Byte := (v &&& 0xEF) ||| 0x20

end Sys2Proof.Machine
end

