-- ==== Sys2Proof/Machine/Operands.lean ====
section
/-! DEFINITION. The addressing-mode resolver (spec/40_step_and_addressing.md R155 to R166) and the shapes in which
instructions use it: read an operand, store a byte, read-modify-write.

An instruction's own bytes have been fetched by the step before its meaning runs (Fetch.lean), in the order of
spec/20_memory.md R109; the operand here holds them. PC is the address of the opcode byte. -/

namespace Sys2Proof.Machine

/-- A byte of the zero page. The spec's `MemRead` there always reads `cpu_ram`, without fault or side
effect (R165). -/
def zeroPage (z : Byte) (s : State) : Byte := ramRead (zext z) s

/-- The little-endian word in the zero page at `z`, the second byte at `z + 1` modulo 256 (R161, R162). -/
def zeroPageWord (z : Byte) (s : State) : Addr := word (zeroPage (z + 1) s) (zeroPage z s)

/-- `Resolve(mode)` (R155 to R164): the effective address of an operand. Format ACC has the tag None,
for which resolving is the fatal of R164; no well-formed instruction's meaning reaches it. -/
def resolve (m : Operand) (s : State) : Except Fault Addr :=
  match m with
  | .acc => raiseFatal (.resolveNone s.pc)
  | .imm _ => .ok (s.pc + 1)
  | .zp z => .ok (zext z)
  | .zpx z => .ok (zext (z + s.x))
  | .zpy z => .ok (zext (z + s.y))
  | .abs w => .ok w
  | .absx w => .ok (w + zext s.x)
  | .absy w => .ok (w + zext s.y)
  | .indx z => .ok (zeroPageWord (z + s.x) s)
  | .indy z => .ok (zeroPageWord z s + zext s.y)

/-- `Operand(mode)` (R166): the value of a read operand and the state after the read. The immediate
byte is the operand byte the step fetched (R155). -/
def readOperand (m : Operand) (s : State) : Except Fault (Byte × State) :=
  match m with
  | .imm v => .ok (v, s)
  | _ => do
    let ea ← resolve m s
    busRead ea s

/-- An instruction that reads an operand `v`, changes the machine by `f v`, and goes on. -/
def readInstr (m : Operand) (f : Byte → State → State) (s : State) : Result State :=
  finish do
    let (v, s1) ← readOperand m s
    .ok (advance m.length (f v s1))

/-- An instruction that stores at its effective address the byte that `v` gives for that address,
without reading the destination (R166), and goes on. -/
def storeInstr (m : Operand) (v : Addr → Byte) (s : State) : Result State :=
  finish do
    let ea ← resolve m s
    let s1 ← busWrite ea (v ea) s
    .ok (advance m.length s1)

/-- A read-modify-write instruction on memory (R166): one read, one write of `r old` at the same
address, then `after old (r old)` on the registers and flags. -/
def modifyInstr (m : Operand) (r : Byte → Byte) (after : Byte → Byte → State → State) (s : State) :
    Result State :=
  finish do
    let ea ← resolve m s
    let (old, s1) ← busRead ea s
    let s2 ← busWrite ea (r old) s1
    .ok (advance m.length (after old (r old) s2))

end Sys2Proof.Machine
end

