-- ==== Sys2Proof/Machine/Arith.lean ====
section
/-! DEFINITION. Arithmetic, logic, compares, increments and decrements (spec/42_arithmetic_logic.md R200 to R216). -/

namespace Sys2Proof.Machine

/-- ADC (R200): `AddToA(v)`. -/
def execAdc (m : Operand) (s : State) : Result State := readInstr m addToA s

/-- SBC (R201): `AddToA(~v)`. -/
def execSbc (m : Operand) (s : State) : Result State := readInstr m (fun v => addToA (~~~v)) s

/-- AND (R202). -/
def execAnd (m : Operand) (s : State) : Result State :=
  readInstr m (fun v t => setZN (t.a &&& v) { t with a := t.a &&& v }) s

/-- ORA (R203). -/
def execOra (m : Operand) (s : State) : Result State :=
  readInstr m (fun v t => setZN (t.a ||| v) { t with a := t.a ||| v }) s

/-- EOR (R204). -/
def execEor (m : Operand) (s : State) : Result State :=
  readInstr m (fun v t => setZN (t.a ^^^ v) { t with a := t.a ^^^ v }) s

/-- BIT (R205): Z from `A & m`, N and V from bits 7 and 6 of the memory byte. -/
def execBit (m : Operand) (s : State) : Result State :=
  readInstr m
    (fun v t => setFlag .v (v.getLsbD 6) (setFlag .n (v.getLsbD 7) (setFlag .z (t.a &&& v == 0) t))) s

/-- CMP (R206). -/
def execCmp (m : Operand) (s : State) : Result State := readInstr m (fun v t => compare t.a v t) s

/-- CPX (R207). -/
def execCpx (m : Operand) (s : State) : Result State := readInstr m (fun v t => compare t.x v t) s

/-- CPY (R208). -/
def execCpy (m : Operand) (s : State) : Result State := readInstr m (fun v t => compare t.y v t) s

/-- INC (R209). -/
def execInc (m : Operand) (s : State) : Result State :=
  modifyInstr m (fun old => old + 1) (fun _ r t => setZN r t) s

/-- DEC (R210). -/
def execDec (m : Operand) (s : State) : Result State :=
  modifyInstr m (fun old => old - 1) (fun _ r t => setZN r t) s

/-- INX (R211). -/
def execInx (s : State) : Result State := .next (advance 1 (setZN (s.x + 1) { s with x := s.x + 1 }))

/-- INY (R212). -/
def execIny (s : State) : Result State := .next (advance 1 (setZN (s.y + 1) { s with y := s.y + 1 }))

/-- DEX (R213). -/
def execDex (s : State) : Result State := .next (advance 1 (setZN (s.x - 1) { s with x := s.x - 1 }))

/-- DEY (R214). -/
def execDey (s : State) : Result State := .next (advance 1 (setZN (s.y - 1) { s with y := s.y - 1 }))

end Sys2Proof.Machine
end

