-- ==== Sys2Proof/Machine/Branch.lean ====
section
/-! DEFINITION. The conditional branches (spec/45_branches.md R260 to R268). -/

namespace Sys2Proof.Machine

/-- `Branch(cond)` (R260): taken, PC is the address after the operand plus the signed displacement,
modulo 65,536; not taken, PC falls through. -/
def branch (taken : Bool) (d : Byte) (s : State) : Result State :=
  if taken then .next { s with pc := s.pc + 2 + sext d } else .next (advance 2 s)

/-- BCC (R261). -/
def execBcc (d : Byte) (s : State) : Result State := branch (!flag s.p .c) d s

/-- BCS (R262). -/
def execBcs (d : Byte) (s : State) : Result State := branch (flag s.p .c) d s

/-- BEQ (R263). -/
def execBeq (d : Byte) (s : State) : Result State := branch (flag s.p .z) d s

/-- BMI (R264). -/
def execBmi (d : Byte) (s : State) : Result State := branch (flag s.p .n) d s

/-- BNE (R265). -/
def execBne (d : Byte) (s : State) : Result State := branch (!flag s.p .z) d s

/-- BPL (R266). -/
def execBpl (d : Byte) (s : State) : Result State := branch (!flag s.p .n) d s

/-- BVC (R267). -/
def execBvc (d : Byte) (s : State) : Result State := branch (!flag s.p .v) d s

/-- BVS (R268). -/
def execBvs (d : Byte) (s : State) : Result State := branch (flag s.p .v) d s

end Sys2Proof.Machine
end

