-- ==== Sys2Proof/Machine/Illegal.lean ====
section
/-! DEFINITION. The implemented illegal opcodes (spec/47_illegal_opcodes.md R300 to R319) and the unassigned bytes
(spec/30_encoding.md R125). -/

namespace Sys2Proof.Machine

/-- The 1-byte NOP variants (R300). -/
def execNopIllegal (_opc : Byte) (s : State) : Result State := .next (advance 1 s)

/-- SKB (R301): PC moves past the operand byte, which has no effect. -/
def execSkb (_opc _v : Byte) (s : State) : Result State := .next (advance 2 s)

/-- IGN (R302): one bus read, discarded; its side effects stay. -/
def execIgn (_opc : Byte) (m : Operand) (s : State) : Result State := readInstr m (fun _ t => t) s

/-- LAX (R303). -/
def execLax (m : Operand) (s : State) : Result State :=
  readInstr m (fun v t => setZN v { t with a := v, x := v }) s

/-- SAX (R304). -/
def execSax (m : Operand) (s : State) : Result State := storeInstr m (fun _ => s.a &&& s.x) s

/-- DCP (R305): DEC, then CMP against A. -/
def execDcp (m : Operand) (s : State) : Result State :=
  modifyInstr m (fun old => old - 1) (fun _ r t => compare t.a r t) s

/-- ISC (R306): INC, then SBC from A. -/
def execIsc (m : Operand) (s : State) : Result State :=
  modifyInstr m (fun old => old + 1) (fun _ r t => addToA (~~~r) t) s

/-- ANC (R307): AND, then bit 7 of A to C. -/
def execAnc (_opc v : Byte) (s : State) : Result State :=
  let r := s.a &&& v
  .next (advance 2 (setFlag .c (r.getLsbD 7) (setZN r { s with a := r })))

/-- ALR (R308): AND, then LSR A. -/
def execAlr (v : Byte) (s : State) : Result State :=
  let t := s.a &&& v
  .next (advance 2 (setZN (t >>> 1) (setFlag .c (t.getLsbD 0) { s with a := t >>> 1 })))

/-- ARR (R309): AND, then ROR A, with C bit 6 of the result and V bit 6 exclusive-or bit 5. -/
def execArr (v : Byte) (s : State) : Result State :=
  let r := (s.a &&& v) >>> 1 ||| carryByte s.p <<< 7
  let s1 := setZN r { s with a := r }
  .next (advance 2 (setFlag .v (r.getLsbD 6 ^^ r.getLsbD 5) (setFlag .c (r.getLsbD 6) s1)))

/-- AXS (R310): `X <- (A & X) - m`, C set when there is no borrow. -/
def execAxs (v : Byte) (s : State) : Result State :=
  let t := s.a &&& s.x
  .next (advance 2 (setZN (t - v) (setFlag .c (decide (v ≤ t)) { s with x := t - v })))

/-- SBC alias $EB (R311): exactly SBC immediate. -/
def execSbcAlias (v : Byte) (s : State) : Result State := .next (advance 2 (addToA (~~~v) s))

/-- LAS (R312): `memory & SP` into A, X and SP. -/
def execLas (w : Addr) (s : State) : Result State :=
  readInstr (.absy w)
    (fun v t => setZN (v &&& t.sp) { t with a := v &&& t.sp, x := v &&& t.sp, sp := v &&& t.sp }) s

/-- `H1(ea)` (R319, D9): the high byte of the effective address plus one, modulo 256. -/
def highPlusOne (ea : Addr) : Byte := hiByte ea + 1

/-- AHX (R313): stores `A & X & H1(ea)`. -/
def execAhx (m : Operand) (s : State) : Result State :=
  storeInstr m (fun ea => s.a &&& s.x &&& highPlusOne ea) s

/-- SHX (R314): stores `X & H1(ea)`. -/
def execShx (w : Addr) (s : State) : Result State :=
  storeInstr (.absy w) (fun ea => s.x &&& highPlusOne ea) s

/-- SHY (R315): stores `Y & H1(ea)`. -/
def execShy (w : Addr) (s : State) : Result State :=
  storeInstr (.absx w) (fun ea => s.y &&& highPlusOne ea) s

/-- TAS (R316): SP becomes `A & X`, then `SP & H1(ea)` is stored. -/
def execTas (w : Addr) (s : State) : Result State :=
  storeInstr (.absy w) (fun ea => s.a &&& s.x &&& highPlusOne ea) { s with sp := s.a &&& s.x }

/-- KIL (R317): the fatal `Kil` with the opcode byte and its address. -/
def execKil (opc : Byte) (s : State) : Result State := finish (raiseFatal (.kil opc s.pc))

/-- An unassigned byte (R125): the fatal `UnknownOpcode` with the byte and its address. -/
def execUnknown (opc : Byte) (s : State) : Result State :=
  finish (raiseFatal (.unknownOpcode opc s.pc))

end Sys2Proof.Machine
end

