-- ==== Sys2Proof/Machine/Jump.lean ====
section
/-! DEFINITION. Jumps, flag instructions, NOP and BRK (spec/46_jumps_flags_system.md R280 to R290). -/

namespace Sys2Proof.Machine

/-- JMP absolute (R280). -/
def execJmp (t : Addr) (s : State) : Result State := .next { s with pc := t }

/-- JMP indirect (R281): the high byte comes from the same page when the pointer ends in 0xFF. -/
def execJmpInd (ptr : Addr) (s : State) : Result State :=
  finish do
    let (l, s1) ← busRead ptr s
    let next := if loByte ptr == 0xFF then ptr &&& 0xFF00 else ptr + 1
    let (h, s2) ← busRead next s1
    .ok { s2 with pc := word h l }

/-- CLC (R282). -/
def execClc (s : State) : Result State := .next (advance 1 (setFlag .c false s))

/-- SEC (R283). -/
def execSec (s : State) : Result State := .next (advance 1 (setFlag .c true s))

/-- CLI (R284). -/
def execCli (s : State) : Result State := .next (advance 1 (setFlag .i false s))

/-- SEI (R285). -/
def execSei (s : State) : Result State := .next (advance 1 (setFlag .i true s))

/-- CLD (R286). -/
def execCld (s : State) : Result State := .next (advance 1 (setFlag .d false s))

/-- SED (R287). -/
def execSed (s : State) : Result State := .next (advance 1 (setFlag .d true s))

/-- CLV (R288). -/
def execClv (s : State) : Result State := .next (advance 1 (setFlag .v false s))

/-- NOP (R289). -/
def execNop (s : State) : Result State := .next (advance 1 s)

/-- BRK (R290, D5): the clean stop; PC is past the opcode byte, nothing is pushed, no flag changes. -/
def execBrk (s : State) : Result State := .next (haltRun (advance 1 s))

end Sys2Proof.Machine
end

