-- ==== Sys2Proof/Machine/Load.lean ====
section
/-! DEFINITION. Loads, stores and register transfers (spec/41_load_store_transfer.md R180 to R191). -/

namespace Sys2Proof.Machine

/-- LDA (R180): `A <- Operand(mode); SetZN(A)`. -/
def execLda (m : Operand) (s : State) : Result State :=
  readInstr m (fun v t => setZN v { t with a := v }) s

/-- LDX (R181): `X <- Operand(mode); SetZN(X)`. -/
def execLdx (m : Operand) (s : State) : Result State :=
  readInstr m (fun v t => setZN v { t with x := v }) s

/-- LDY (R182): `Y <- Operand(mode); SetZN(Y)`. -/
def execLdy (m : Operand) (s : State) : Result State :=
  readInstr m (fun v t => setZN v { t with y := v }) s

/-- STA (R183): `MemWrite(ea, 1, A)`. -/
def execSta (m : Operand) (s : State) : Result State := storeInstr m (fun _ => s.a) s

/-- STX (R184): `MemWrite(ea, 1, X)`. -/
def execStx (m : Operand) (s : State) : Result State := storeInstr m (fun _ => s.x) s

/-- STY (R185): `MemWrite(ea, 1, Y)`. -/
def execSty (m : Operand) (s : State) : Result State := storeInstr m (fun _ => s.y) s

/-- TAX (R186). -/
def execTax (s : State) : Result State := .next (advance 1 (setZN s.a { s with x := s.a }))

/-- TAY (R187). -/
def execTay (s : State) : Result State := .next (advance 1 (setZN s.a { s with y := s.a }))

/-- TXA (R188). -/
def execTxa (s : State) : Result State := .next (advance 1 (setZN s.x { s with a := s.x }))

/-- TYA (R189). -/
def execTya (s : State) : Result State := .next (advance 1 (setZN s.y { s with a := s.y }))

/-- TSX (R190). -/
def execTsx (s : State) : Result State := .next (advance 1 (setZN s.sp { s with x := s.sp }))

/-- TXS (R191): no flag is written. -/
def execTxs (s : State) : Result State := .next (advance 1 { s with sp := s.x })

end Sys2Proof.Machine
end

