-- ==== Sys2Proof/Machine/Shift.lean ====
section
/-! DEFINITION. Shifts and rotates (spec/43_shifts_rotates.md R230 to R234). -/

namespace Sys2Proof.Machine

/-- The two variants of R234: `old` is the accumulator or the memory byte, `r old` is written back,
C becomes `out old`, and Z and N come from the result. -/
def shiftInstr (m : Operand) (r : Byte → Byte) (out : Byte → Bool) (s : State) : Result State :=
  let after := fun (old res : Byte) (t : State) => setZN res (setFlag .c (out old) t)
  match m with
  | .acc => .next (advance 1 (after s.a (r s.a) { s with a := r s.a }))
  | _ => modifyInstr m r after s

/-- ASL (R230): left, 0 shifted in, bit 7 to C. -/
def execAsl (m : Operand) (s : State) : Result State :=
  shiftInstr m (fun old => old <<< 1) (fun old => old.getLsbD 7) s

/-- LSR (R231): right, 0 shifted in, bit 0 to C. -/
def execLsr (m : Operand) (s : State) : Result State :=
  shiftInstr m (fun old => old >>> 1) (fun old => old.getLsbD 0) s

/-- ROL (R232): left, the old C shifted in, bit 7 to C. -/
def execRol (m : Operand) (s : State) : Result State :=
  shiftInstr m (fun old => old <<< 1 ||| carryByte s.p) (fun old => old.getLsbD 7) s

/-- ROR (R233): right, the old C shifted in at bit 7, bit 0 to C. -/
def execRor (m : Operand) (s : State) : Result State :=
  shiftInstr m (fun old => old >>> 1 ||| carryByte s.p <<< 7) (fun old => old.getLsbD 0) s

end Sys2Proof.Machine
end

