-- ==== Sys2Proof/Machine/Stack.lean ====
section
/-! DEFINITION. Stack, subroutine call and returns (spec/44_stack_subroutine.md R244 to R250). -/

namespace Sys2Proof.Machine

/-- PHA (R244): `Push(A)`. -/
def execPha (s : State) : Result State := .next (advance 1 (push s.a s))

/-- PLA (R245): `A <- Pop(); SetZN(A)`. -/
def execPla (s : State) : Result State :=
  let (v, s1) := pop s
  .next (advance 1 (setZN v { s1 with a := v }))

/-- PHP (R246): P is pushed with B1 and B2 on, and not changed. -/
def execPhp (s : State) : Result State := .next (advance 1 (push (statusPushed s.p) s))

/-- The status pop that PLP and RTI share (R247, R250). -/
def popStatus (s : State) : State :=
  let (v, s1) := pop s
  { s1 with p := statusPopped v }

/-- PLP (R247). -/
def execPlp (s : State) : Result State := .next (advance 1 (popStatus s))

/-- JSR (R248): the address of its own last byte is pushed, high byte first; PC becomes the target. -/
def execJsr (t : Addr) (s : State) : Result State :=
  .next { pushWord (s.pc + 2) s with pc := t }

/-- RTS (R249): PC becomes the popped word plus 1. -/
def execRts (s : State) : Result State :=
  let (w, s1) := popWord s
  .next { s1 with pc := w + 1 }

/-- RTI (R250, spec/60_exceptions.md R348): P as PLP, then PC is the popped word. -/
def execRti (s : State) : Result State :=
  let (w, s1) := popWord (popStatus s)
  .next { s1 with pc := w }

end Sys2Proof.Machine
end

