-- ==== Sys2Proof/Machine/HostOps.lean ====
section
/-! DEFINITION. What the host does to the machine: `reset` (spec/70_reset_and_hazards.md R370, R373), running again after a
clean stop (spec/46_jumps_flags_system.md R290, spec/60_exceptions.md R355), the callback before each fetch
(spec/00_scope.md R9, spec/40_step_and_addressing.md R150), and the two uses of it that the spec describes (R376, R377). -/

namespace Sys2Proof

/-- The open parameter `HOST` (spec/00_scope.md R9, OPEN in D23): the effects of a call of the callback, as a
function of the call's number and of the machine state it sees. It has no value in the model (log 4),
so what is proved of a machine whose callback is `free` holds for every such function; the number makes
it a relation. -/
opaque Config.hostCall : Nat → Machine.State → List Machine.HostAct

end Sys2Proof

namespace Sys2Proof.Machine

/-- The CPU registers and `run` of `reset` (R370). The two vector reads are plain PRG ROM reads. Memory
and the PPU keep what they hold (R373). -/
def cpuReset (s : State) : State :=
  { s with
    a := 0x00
    x := 0x00
    y := 0x00
    sp := 0xFD
    p := 0x24
    pc := word (prgRead s.cart 0xFFFD) (prgRead s.cart 0xFFFC)
    run := .running }

/-- The host calls `reset` (R373): from Running or Halted as R370; from Fatal nothing is defined (D34),
so the answer is that fatal again. -/
def hostReset (s : State) : Result State :=
  match s.run with
  | .running | .halted => .next (cpuReset s)
  | .fatal f => .fault f

/-- The host runs the loop again (R48, R290): a halted machine goes on at the byte after the BRK. -/
def hostResume (s : State) : Result State :=
  match s.run with
  | .running | .halted => .next { s with run := .running }
  | .fatal f => .fault f

/-- One effect of the callback (R9). A bus access of the callback is an ordinary bus access; a callback that
makes `run` Fatal ends the step with that fatal (R343, log 19). -/
def runHostAct (act : HostAct) (s : State) : Except Fault State :=
  match act with
  | .setA v => .ok { s with a := v }
  | .setX v => .ok { s with x := v }
  | .setY v => .ok { s with y := v }
  | .setSp v => .ok { s with sp := v }
  | .setP v => .ok { s with p := v }
  | .setPc w => .ok { s with pc := w }
  | .setPpuAddr w => .ok { s with ppu := { s.ppu with addr := w } }
  | .setAddrLatch l => .ok { s with ppu := { s.ppu with addrLatch := l } }
  | .setPpuCtrl v => .ok { s with ppu := { s.ppu with ctrl := v } }
  | .setPpuMask v => .ok { s with ppu := { s.ppu with mask := v } }
  | .setScrollX v => .ok { s with ppu := { s.ppu with scrollX := v } }
  | .setScrollY v => .ok { s with ppu := { s.ppu with scrollY := v } }
  | .setScrollLatch l => .ok { s with ppu := { s.ppu with scrollLatch := l } }
  | .setReadBuffer v => .ok { s with ppu := { s.ppu with readBuffer := v } }
  | .setVram k v => .ok { s with ppu := { s.ppu with vram := s.ppu.vram.write k v } }
  | .setPalette k v => .ok { s with ppu := { s.ppu with palette := s.ppu.palette.write k v } }
  | .setOam k v => .ok { s with ppu := { s.ppu with oam := s.ppu.oam.write k v } }
  | .setRun .running => .ok { s with run := .running }
  | .setRun .halted => .ok { s with run := .halted }
  | .setRun (.fatal f) => .error f
  | .busRead addr => do
    let (_, s1) ← busRead addr s
    .ok s1
  | .busWrite addr v => busWrite addr v s
  | .reset => .ok (cpuReset s)

/-- The effects of one call of the callback, in order. -/
def runHostActs : List HostAct → State → Except Fault State
  | [], s => .ok s
  | act :: rest, s => do
    let s1 ← runHostAct act s
    runHostActs rest s1

/-- The effects of the call that comes before the next fetch, from the state it sees. -/
def hostCall (s : State) : List HostAct :=
  match s.host with
  | .listed [] => []
  | .listed (acts :: _) => acts
  | .free n => Config.hostCall n s

/-- The callback once its next call is made. -/
def Callback.next : Callback → Callback
  | .listed [] => .listed []
  | .listed (_ :: rest) => .listed rest
  | .free n => .free (n + 1)

/-- `state <- HOST(state)` (R150): one call of the callback. -/
def runHost (s : State) : Except Fault State :=
  runHostActs (hostCall s) { s with host := s.host.next }

/-- The first half of the `load` helper (spec/70_reset_and_hazards.md R376): the program's bytes written
from the load address on, each by one bus write. -/
def loadActs : Addr → List Byte → List HostAct
  | _, [] => []
  | addr, b :: rest => .busWrite addr b :: loadActs (addr + 1) rest

/-- What a snake-style host does before each step (R377): a random byte in $00FE and the last key in $00FF. -/
def snakeActs (random key : Byte) : List HostAct := [.busWrite 0x00FE random, .busWrite 0x00FF key]

end Sys2Proof.Machine
end

