-- ==== Sys2Proof/Machine/Fetch.lean ====
section
/-! DEFINITION. Fetching an instruction's bytes over the bus (spec/40_step_and_addressing.md R150, R151; the order is
spec/20_memory.md R109), and placing an instruction where the next fetch finds it. -/

namespace Sys2Proof.Machine

/-- How many operand bytes the instruction reads from the bus, with `p` the status byte: all of them,
but none for SKB (R301, D10) and for a branch that is not taken (R260, D27). -/
def operandReads (i : Instr) (p : Byte) : Nat :=
  match i with
  | .skb _ _ => 0
  | .bcc _ => if flag p .c then 0 else 1
  | .bcs _ => if flag p .c then 1 else 0
  | .beq _ => if flag p .z then 1 else 0
  | .bne _ => if flag p .z then 0 else 1
  | .bmi _ => if flag p .n then 1 else 0
  | .bpl _ => if flag p .n then 0 else 1
  | .bvc _ => if flag p .v then 0 else 1
  | .bvs _ => if flag p .v then 1 else 0
  | .lda _ | .ldx _ | .ldy _ | .sta _ | .stx _ | .sty _ | .tax | .tay | .txa | .tya | .tsx | .txs
  | .adc _ | .sbc _ | .and _ | .ora _ | .eor _ | .bit _ | .cmp _ | .cpx _ | .cpy _
  | .inc _ | .dec _ | .inx | .iny | .dex | .dey | .asl _ | .lsr _ | .rol _ | .ror _
  | .pha | .pla | .php | .plp | .jsr _ | .rts | .rti | .jmp _ | .jmpInd _
  | .clc | .sec | .cli | .sei | .cld | .sed | .clv | .nop | .brk | .nopIllegal _
  | .ign _ _ | .lax _ | .sax _ | .dcp _ | .isc _ | .anc _ _ | .alr _ | .arr _ | .axs _
  | .sbcAlias _ | .las _ | .ahx _ | .shx _ | .shy _ | .tas _ | .kil _ | .unknown _ => i.length - 1

/-- Fetch: the opcode byte at PC, then the operand bytes the instruction reads, in ascending order, all
by ordinary bus reads with their side effects and fatals (R151). An operand byte that is not read
stands as 0x00 in the instruction, which does not use it (log 9). -/
def fetch (s : State) : Except Fault (Instr × State) := do
  let (opc, s1) ← busRead s.pc s
  match operandReads (instrAt opc 0 0) s.p with
  | 0 => .ok (instrAt opc 0 0, s1)
  | 1 => do
    let (b1, s2) ← busRead (s.pc + 1) s1
    .ok (instrAt opc b1 0, s2)
  | _ => do
    let (b1, s2) ← busRead (s.pc + 1) s1
    let (b2, s3) ← busRead (s.pc + 2) s2
    .ok (instrAt opc b1 b2, s3)

/-- A byte can stand at this address: it is RAM or PRG ROM. -/
def isStorage (addr : Addr) : Bool := decide (addr ≤ 0x1FFF) || decide (0x8000 ≤ addr)

/-- The address at which an instruction of up to three bytes is placed: PC, or $0600 if one of the
three bytes at PC is no storage (log 3). -/
def placeAddr (pc : Addr) : Addr :=
  if isStorage pc && isStorage (pc + 1) && isStorage (pc + 2) then pc else 0x0600

/-- The state with the three bytes of `w`, cut to `nbits` bits, placed where the next step fetches, and
that step enabled: running, with no callback effect pending (log 3). -/
def placeInstr (nbits w : Nat) (s : State) : State :=
  let v := w % 2 ^ nbits
  let pc := placeAddr s.pc
  let s0 := { s with pc := pc, run := .running, host := .identity }
  let s1 := placeByte pc (BitVec.ofNat 8 v) s0
  let s2 := placeByte (pc + 1) (BitVec.ofNat 8 (v / 2 ^ 8)) s1
  placeByte (pc + 2) (BitVec.ofNat 8 (v / 2 ^ 16)) s2

end Sys2Proof.Machine
end

