-- ==== Sys2Proof/Machine/Step.lean ====
section
/-! DEFINITION. One step: one instruction, preceded by the host callback (spec/40_step_and_addressing.md R150). -/

namespace Sys2Proof.Machine

/-- `Step()` (R150). It is enabled only when `run` is Running. A halted machine stays as it is until the
host runs the loop again (R48; DESIGN CHOICE, log 5), and a fatal is absorbing (R343). -/
def step (s : State) : Host.Outcome State Fault Refusal :=
  match s.run with
  | .halted => .next s
  | .fatal f => .fault f
  | .running =>
    match runHost s with
    | .error f => .fault f
    | .ok s0 =>
      match fetch s0 with
      | .error f => .fault f
      | .ok (i, s1) => exec i s1

/-- The state whose next step fetches and runs the instruction with bits `w` (log 3). -/
def State.withFetchWord (s : State) (nbits w : Nat) : State := placeInstr nbits w s

end Sys2Proof.Machine
end

