-- ==== Sys2Proof/Safety.lean ====
section
/-! DEFINITION. The terms in which claims about the machine are stated: canonical states, the accesses the bus completes, safe
runs, and the spec's own tables of what an instruction writes (spec/10_state.md R21 to R24 and the flag table after R35). -/

namespace Sys2Proof.Machine

/-! ### Canonical states -/

/-- The cartridge is one the spec admits (spec/00_scope.md R8): its arrays are canonical and lie inside
their sizes, and the mapper is 0. -/
def cartWf (c : Cartridge) : Bool :=
  c.prg.wf && c.prg.below c.prgBanks.size && c.chr.wf && c.chr.below (8192 * c.chrBanks) &&
    c.mapper == 0

/-- The four RAM arrays are canonical and lie inside their sizes (R41 to R43, R46). -/
def ramWf (s : State) : Bool :=
  s.cpuRam.wf && s.cpuRam.below 2048 && s.ppu.vram.wf && s.ppu.vram.below 2048 &&
    s.ppu.palette.wf && s.ppu.palette.below 32 && s.ppu.oam.wf && s.ppu.oam.below 256

/-- Every array of the state is canonical. -/
def stateWf (s : State) : Bool := ramWf s && cartWf s.cart

/-- The break bits read between steps (spec/10_state.md R35): B1 is 0 and B2 is 1. -/
def breakBits (p : Byte) : Bool := !flag p .b1 && flag p .b2

/-- An effect of the callback that writes P directly. -/
def HostAct.writesP : HostAct → Bool
  | .setP _ => true
  | .setA _ | .setX _ | .setY _ | .setSp _ | .setPc _ | .busRead _ | .busWrite _ _ | .reset => false
  | .setPpuAddr _ | .setAddrLatch _ | .setPpuCtrl _ | .setPpuMask _ | .setScrollX _ => false
  | .setScrollY _ | .setScrollLatch _ | .setReadBuffer _ => false
  | .setVram _ _ | .setPalette _ _ | .setOam _ _ | .setRun _ => false

/-- Every effect of every call of the callback still to come satisfies `good`, whatever state a call sees. -/
def hostAll (good : HostAct → Bool) (s : State) : Prop :=
  match s.host with
  | .listed calls => (calls.all fun acts => acts.all good) = true
  | .free m => ∀ n t, m ≤ n → (Config.hostCall n t).all good = true

/-- No call of the callback still to come writes P (the condition of R35). -/
def hostKeepsP (s : State) : Prop := hostAll (fun act => !act.writesP) s

/-! ### What the bus completes -/

/-- The CPU address lies in the PPU window $2000 to $3FFF (spec/20_memory.md R67). -/
def InPpu (addr : Addr) : Prop := 0x2000 ≤ addr ∧ addr ≤ 0x3FFF

/-- The CPU address is the PPU data port $2007 or one of its mirrors (R77). -/
def IsDataPort (addr : Addr) : Prop := InPpu addr ∧ ppuReg addr = .data

/-- The nametable or palette cell at `ppu_addr` exists: $2000 to $2FFF, of which FourScreen backs
only the first two nametables (R92, D18), and $3F00 to $3FFF. -/
def PortCell (s : State) : Prop :=
  (0x2000 ≤ s.ppu.addr ∧ s.ppu.addr ≤ 0x2FFF ∧
    (s.cart.mirroring = .fourScreen → s.ppu.addr ≤ 0x27FF)) ∨
  (0x3F00 ≤ s.ppu.addr ∧ s.ppu.addr ≤ 0x3FFF)

/-- A data-port read completes (R84): a CHR byte that exists, or a nametable or palette cell. -/
def PortReadable (s : State) : Prop :=
  (s.ppu.addr ≤ 0x1FFF ∧ s.ppu.addr.toNat < 8192 * s.cart.chrBanks) ∨ PortCell s

/-- A bus read at `addr` completes (R61, R62). -/
def Readable (addr : Addr) (s : State) : Prop :=
  addr ≤ 0x1FFF ∨ 0x8000 ≤ addr ∨
    (InPpu addr ∧ (ppuReg addr = .status ∨ (ppuReg addr = .data ∧ PortReadable s)))

/-- A bus write at `addr` completes (R61, R63). -/
def Writable (addr : Addr) (s : State) : Prop :=
  addr ≤ 0x1FFF ∨
    (InPpu addr ∧
      (ppuReg addr = .ctrl ∨ ppuReg addr = .mask ∨ ppuReg addr = .scroll ∨ ppuReg addr = .addr ∨
        (ppuReg addr = .data ∧ PortCell s)))

/-- Two CPU addresses reach the same byte: the same address, or the same cell of `cpu_ram` through
its mirrors (R66). -/
def SameByte (a b : Addr) : Prop := a = b ∨ (a ≤ 0x1FFF ∧ b ≤ 0x1FFF ∧ ramIndex a = ramIndex b)

/-- A read operand of an instruction can be read: it is the immediate byte, or its effective address is
readable. -/
def OperandReadable (m : Operand) (s : State) : Prop :=
  ∀ ea, (∀ b, m ≠ .imm b) → resolve m s = .ok ea → Readable ea s

/-- A store at the operand's effective address completes. -/
def OperandWritable (m : Operand) (s : State) : Prop := ∀ ea, resolve m s = .ok ea → Writable ea s

/-- One read and then one write at `addr` complete: RAM, or the data port with the cell it reads and, after
the increment, the cell it writes (R86, R109). -/
def Modifiable (addr : Addr) (s : State) : Prop :=
  addr ≤ 0x1FFF ∨
    (IsDataPort addr ∧ PortReadable s ∧ PortCell { s with ppu := s.ppu.bump })

/-- A read-modify-write at the operand's effective address completes. -/
def OperandModifiable (m : Operand) (s : State) : Prop :=
  ∀ ea, resolve m s = .ok ea → Modifiable ea s

/-! ### Flag effects from the status `p` to the status `q` -/

/-- `SetZN(v)` (R12): Z and N from `v`, every other flag kept. -/
def SetsZN (v p q : Byte) : Prop :=
  flag q .z = (v == 0) ∧ flag q .n = v.getLsbD 7 ∧ ∀ f, f ≠ .z → f ≠ .n → flag q f = flag p f

/-- Carry `c`, then Z and N from `v`, every other flag kept. -/
def SetsCZN (c : Bool) (v p q : Byte) : Prop :=
  flag q .c = c ∧ flag q .z = (v == 0) ∧ flag q .n = v.getLsbD 7 ∧
    ∀ f, f ≠ .c → f ≠ .z → f ≠ .n → flag q f = flag p f

/-- Carry `c` and overflow `o`, then Z and N from `v`, every other flag kept. -/
def SetsCVZN (c o : Bool) (v p q : Byte) : Prop :=
  flag q .c = c ∧ flag q .v = o ∧ flag q .z = (v == 0) ∧ flag q .n = v.getLsbD 7 ∧
    ∀ f, f ≠ .c → f ≠ .v → f ≠ .z → f ≠ .n → flag q f = flag p f

/-- One flag written, every other flag kept. -/
def SetsFlag (g : Flag) (b : Bool) (p q : Byte) : Prop :=
  flag q g = b ∧ ∀ f, f ≠ g → flag q f = flag p f

/-- `r` and the status `q` are the sum of `a`, `v` and the carry of `p` (R216): the low 8 bits, C for a sum
of 256 or more, V when the operands' sign bits agree and the result's differs. -/
def AddsWithCarry (a v p r q : Byte) : Prop :=
  r.toNat = (a.toNat + v.toNat + (flag p .c).toNat) % 256 ∧
    SetsCVZN (decide (256 ≤ a.toNat + v.toNat + (flag p .c).toNat))
      (a.getLsbD 7 == v.getLsbD 7 && r.getLsbD 7 != a.getLsbD 7) r p q

/-- `r` and the status `q` are the difference of `a`, `v` and the borrow, which is 1 minus the carry of `p`
(R201): modulo 256, C for no borrow, V when the operands' sign bits differ and the result's is not
`a`'s. -/
def SubtractsWithBorrow (a v p r q : Byte) : Prop :=
  (r.toNat : Int) = ((a.toNat : Int) - v.toNat - (1 - (flag p .c).toNat)) % 256 ∧
    SetsCVZN (decide (v.toNat + 1 ≤ a.toNat + (flag p .c).toNat))
      (a.getLsbD 7 != v.getLsbD 7 && r.getLsbD 7 != a.getLsbD 7) r p q

/-! ### Runs -/

/-- One move of the machine as the spec has it: a completed step, or a fatal, after which `run` holds
the cause and everything else is unspecified (spec/10_state.md R48, spec/60_exceptions.md R343). -/
def Move (s t : State) : Prop :=
  step s = .next t ∨ ∃ f, step s = .fault f ∧ t.run = .fatal f

/-- The machine can take `n` steps without a fatal. -/
def SafeFor : Nat → State → Prop
  | 0, _ => True
  | n + 1, s => ∃ t, step s = .next t ∧ SafeFor n t

/-! ### The spec's tables of what an instruction writes -/

/-- The 8-bit registers other than P. -/
inductive Reg
  | a
  | x
  | y
  | sp
deriving DecidableEq, Repr

/-- A register's value. -/
def State.reg (s : State) : Reg → Byte
  | .a => s.a
  | .x => s.x
  | .y => s.y
  | .sp => s.sp

/-- The operand is the accumulator. -/
def Operand.isAcc : Operand → Bool
  | .acc => true
  | .imm _ | .zp _ | .zpx _ | .zpy _ | .abs _ | .absx _ | .absy _ | .indx _ | .indy _ => false

/-- The registers an instruction writes, by the lists of R21 (A), R22 (X), R23 (Y) and R24 (SP). -/
def writesReg : Instr → List Reg
  | .lda _ | .txa | .tya | .adc _ | .sbc _ | .and _ | .ora _ | .eor _ => [.a]
  | .isc _ | .anc _ _ | .alr _ | .arr _ | .sbcAlias _ => [.a]
  | .asl m | .lsr m | .rol m | .ror m => if Operand.isAcc m then [.a] else []
  | .pla => [.a, .sp]
  | .lax _ => [.a, .x]
  | .las _ => [.a, .x, .sp]
  | .ldx _ | .tax | .tsx | .inx | .dex | .axs _ => [.x]
  | .ldy _ | .tay | .iny | .dey => [.y]
  | .txs | .pha | .php | .plp | .jsr _ | .rts | .rti | .tas _ => [.sp]
  | .sta _ | .stx _ | .sty _ | .sax _ | .ahx _ | .shx _ | .shy _ => []
  | .bit _ | .cmp _ | .cpx _ | .cpy _ | .inc _ | .dec _ | .dcp _ | .ign _ _ => []
  | .bcc _ | .bcs _ | .beq _ | .bmi _ | .bne _ | .bpl _ | .bvc _ | .bvs _ => []
  | .jmp _ | .jmpInd _ | .clc | .sec | .cli | .sei | .cld | .sed | .clv | .nop | .brk => []
  | .nopIllegal _ | .skb _ _ | .kil _ | .unknown _ => []

/-- The flags an instruction writes, by the flag table of spec/10_state.md. -/
def writesFlag : Instr → List Flag
  | .lda _ | .ldx _ | .ldy _ | .lax _ | .tax | .tay | .txa | .tya | .tsx | .pla => [.n, .z]
  | .and _ | .ora _ | .eor _ | .inc _ | .dec _ | .inx | .iny | .dex | .dey | .las _ => [.n, .z]
  | .adc _ | .sbc _ | .isc _ | .sbcAlias _ => [.n, .v, .z, .c]
  | .cmp _ | .cpx _ | .cpy _ | .dcp _ | .axs _ => [.n, .z, .c]
  | .asl _ | .lsr _ | .rol _ | .ror _ | .alr _ | .anc _ _ => [.n, .z, .c]
  | .arr _ => [.n, .v, .z, .c]
  | .bit _ => [.n, .v, .z]
  | .clc | .sec => [.c]
  | .cli | .sei => [.i]
  | .cld | .sed => [.d]
  | .clv => [.v]
  | .plp | .rti => [.n, .v, .b2, .b1, .d, .i, .z, .c]
  | .sta _ | .stx _ | .sty _ | .sax _ | .txs | .pha | .php | .jmp _ | .jmpInd _ | .jsr _ | .rts => []
  | .bcc _ | .bcs _ | .beq _ | .bmi _ | .bne _ | .bpl _ | .bvc _ | .bvs _ => []
  | .nop | .nopIllegal _ | .ign _ _ | .skb _ _ => []
  | .ahx _ | .shx _ | .shy _ | .tas _ | .brk | .kil _ | .unknown _ => []

/-- The instruction assigns PC, with `p` the status byte: the jumps, the subroutine call and the returns, and
a conditional branch whose condition holds (R152). -/
def assignsPc (i : Instr) (p : Byte) : Bool :=
  match i with
  | .jmp _ | .jmpInd _ | .jsr _ | .rts | .rti => true
  | .bcc _ => !flag p .c
  | .bcs _ => flag p .c
  | .beq _ => flag p .z
  | .bne _ => !flag p .z
  | .bmi _ => flag p .n
  | .bpl _ => !flag p .n
  | .bvc _ => !flag p .v
  | .bvs _ => flag p .v
  | .lda _ | .ldx _ | .ldy _ | .sta _ | .stx _ | .sty _ | .tax | .tay | .txa | .tya | .tsx | .txs => false
  | .adc _ | .sbc _ | .and _ | .ora _ | .eor _ | .bit _ | .cmp _ | .cpx _ | .cpy _ => false
  | .inc _ | .dec _ | .inx | .iny | .dex | .dey | .asl _ | .lsr _ | .rol _ | .ror _ => false
  | .pha | .pla | .php | .plp | .clc | .sec | .cli | .sei | .cld | .sed | .clv | .nop | .brk => false
  | .nopIllegal _ | .skb _ _ | .ign _ _ | .lax _ | .sax _ | .dcp _ | .isc _ | .anc _ _ | .alr _ => false
  | .arr _ | .axs _ | .sbcAlias _ | .las _ | .ahx _ | .shx _ | .shy _ | .tas _ => false
  | .kil _ | .unknown _ => false

/-- The CPU addresses an instruction stores to, from the state it starts in: the effective address of
a store or of a read-modify-write, the stack bytes of a push. -/
def storesTo (i : Instr) (s : State) : List Addr :=
  match i with
  | .sta m | .stx m | .sty m | .sax m | .ahx m => (resolve m s).toOption.toList
  | .inc m | .dec m | .dcp m | .isc m => (resolve m s).toOption.toList
  | .asl m | .lsr m | .rol m | .ror m => (resolve m s).toOption.toList
  | .shx w | .tas w => (resolve (.absy w) s).toOption.toList
  | .shy w => (resolve (.absx w) s).toOption.toList
  | .pha | .php => [stackAddr s.sp]
  | .jsr _ => [stackAddr s.sp, stackAddr (s.sp - 1)]
  | .lda _ | .ldx _ | .ldy _ | .tax | .tay | .txa | .tya | .tsx | .txs => []
  | .adc _ | .sbc _ | .and _ | .ora _ | .eor _ | .bit _ | .cmp _ | .cpx _ | .cpy _ => []
  | .inx | .iny | .dex | .dey | .pla | .plp | .rts | .rti => []
  | .bcc _ | .bcs _ | .beq _ | .bmi _ | .bne _ | .bpl _ | .bvc _ | .bvs _ | .jmp _ | .jmpInd _ => []
  | .clc | .sec | .cli | .sei | .cld | .sed | .clv | .nop | .brk | .nopIllegal _ | .skb _ _ => []
  | .ign _ _ | .lax _ | .anc _ _ | .alr _ | .arr _ | .axs _ | .sbcAlias _ | .las _ => []
  | .kil _ | .unknown _ => []

/-- The address a read operand is read from while the instruction's meaning runs; an immediate byte has
been fetched before it. -/
def operandAddr (m : Operand) (s : State) : List Addr :=
  match m with
  | .imm _ => []
  | .acc | .zp _ | .zpx _ | .zpy _ | .abs _ | .absx _ | .absy _ | .indx _ | .indy _ =>
    (resolve m s).toOption.toList

/-- The CPU addresses an instruction's meaning reads as data, from the state it starts in: the
address of a read operand, and the pointer bytes of JMP indirect (R281). -/
def readsFrom (i : Instr) (s : State) : List Addr :=
  match i with
  | .lda m | .ldx m | .ldy m | .adc m | .sbc m | .and m | .ora m | .eor m | .bit m | .cmp m
  | .cpx m | .cpy m | .ign _ m | .lax m => operandAddr m s
  | .las w => operandAddr (.absy w) s
  | .jmpInd ptr => [ptr, word (hiByte ptr) (loByte ptr + 1)]
  | .sta _ | .stx _ | .sty _ | .tax | .tay | .txa | .tya | .tsx | .txs => []
  | .inc _ | .dec _ | .inx | .iny | .dex | .dey | .asl _ | .lsr _ | .rol _ | .ror _ => []
  | .pha | .pla | .php | .plp | .jsr _ | .rts | .rti | .jmp _ => []
  | .bcc _ | .bcs _ | .beq _ | .bmi _ | .bne _ | .bpl _ | .bvc _ | .bvs _ => []
  | .clc | .sec | .cli | .sei | .cld | .sed | .clv | .nop | .brk | .nopIllegal _ | .skb _ _ => []
  | .sax _ | .dcp _ | .isc _ | .anc _ _ | .alr _ | .arr _ | .axs _ | .sbcAlias _ => []
  | .ahx _ | .shx _ | .shy _ | .tas _ | .kil _ | .unknown _ => []

end Sys2Proof.Machine
end

