-- ==== Sys2Proof/Certificates/Slice0/Obligations.lean ====
section
/-! DEFINITION. The statements about the machine, each a Prop, from the numbered rules of spec/. OBLIGATIONS.json says of each
what it claims and which rules it cites. -/

section

open Sys2Proof Sys2Proof.Machine

/-- The encoder follows the tables of R123 and R124, the decoder the opcode map; no bit of an
encoding is dropped. Rests on the spec's own points G1, G2 and D8 for the bytes (log 7). -/
def Obligations.DecodeOfEncodeIsTheInstruction : Prop :=
  ∀ (i : Instr) (rest : List Byte), i.wf = true → decode (encode i ++ rest) = .ok (i, rest)

/-- The other direction of the round trip (R120, R122). Rests on the spec's own decision D6 (log 7).
-/
def Obligations.EncodeOfDecodeIsTheBytes : Prop :=
  ∀ (bytes : List Byte) (i : Instr) (rest : List Byte), decode bytes = .ok (i, rest) →
    i.wf = true ∧ encode i ++ rest = bytes

/-- R120: the length is a function of the opcode byte alone. R125: thirty bytes have no descriptor.
R317: twelve are KIL. Rests on the spec's own points G1, G2, D6 and D8 for the bytes (log 7). -/
def Obligations.OpcodeByteFixesLengthAndClass : Prop :=
  ∀ (opc b1 b2 : Byte) (rest : List Byte), ∃ i : Instr,
    decode (opc :: b1 :: b2 :: rest) = .ok (i, (opc :: b1 :: b2 :: rest).drop i.length) ∧
    1 ≤ i.length ∧ i.length ≤ 3 ∧ i.length = lengthAt opc ∧ i.opcode = some opc ∧
    (i = .unknown opc ↔ opc ∈ unassignedBytes) ∧ (i = .kil opc ↔ opc ∈ kilBytes)

/-- R123, R124 and R125 give the byte, R121 the format, R126 the byte order of a word operand. Rests
on the spec's own points G1, G2, D6 and D8 for the bytes (log 7). -/
def Obligations.SampleWordsDecode : Prop :=
  decodeTableWord 16 0xC0A9 = some (.lda (.imm 0xC0)) ∧
  decodeTableWord 16 0x2096 = some (.stx (.zpy 0x20)) ∧
  decodeTableWord 8 0xAA = some .tax ∧
  decodeTableWord 16 0xFE71 = some (.adc (.indy 0xFE)) ∧
  decodeTableWord 24 0x12F0DD = some (.cmp (.absx 0x12F0)) ∧
  decodeTableWord 8 0x4A = some (.lsr .acc) ∧
  decodeTableWord 24 0x060920 = some (.jsr 0x0609) ∧
  decodeTableWord 16 0x8010 = some (.bpl 0x80) ∧
  decodeTableWord 24 0x02FF6C = some (.jmpInd 0x02FF) ∧
  decodeTableWord 8 0x00 = some .brk ∧
  decodeTableWord 16 0x10D3 = some (.dcp (.indy 0x10)) ∧
  decodeTableWord 24 0x02009F = some (.ahx (.absy 0x0200)) ∧
  decodeTableWord 8 0xB2 = some (.kil 0xB2) ∧
  decodeTableWord 8 0x8B = some (.unknown 0x8B)

/-- R150 and R151. That the instruction bytes reach the meaning as operands is the model's
arrangement (log 9). -/
def Obligations.StepRunsDecodedInstruction : Prop :=
  ∀ (s : State) (i : Instr), s.run = .running → s.host = .identity → i.wf = true →
    (∀ k b, (encode i)[k]? = some b → peek (s.pc + BitVec.ofNat 16 k) s = some b) →
    step s = exec i s

/-- R9: the callback is invoked synchronously before each instruction fetch and may mutate CPU
state. R150: state <- HOST(state). R346: it may change any state. R151: a fetch in the PPU window is
an ordinary bus read with its side effect. That the callback is held as plain data in State, listed
calls or the open function (log 4), and the list of effects, with what a callback that writes run
does (log 19), are DESIGN CHOICES of the model. Rests on the spec's own decision D23 (log 7). -/
def Obligations.StepIsHostThenFetchThenExec : Prop :=
  (∀ (s : State) (acts : List HostAct) (later : Callback), s.run = .running →
    (s.host = .identity ∧ acts = [] ∧ later = .identity) ∨
      (∃ rest, s.host = .listed (acts :: rest) ∧ later = .listed rest) ∨
      (∃ n, s.host = .free n ∧ acts = Config.hostCall n s ∧ later = .free (n + 1)) →
    (∀ f, runHostActs acts { s with host := later } = .error f → step s = .fault f) ∧
    (∀ s0, runHostActs acts { s with host := later } = .ok s0 →
      (∀ f, fetch s0 = .error f → step s = .fault f) ∧
      (∀ i s1, fetch s0 = .ok (i, s1) → step s = exec i s1))) ∧
  (∀ s : State, s.run = .running → s.host = .identity →
    (∀ f, fetch s = .error f → step s = .fault f) ∧
    (∀ i s1, fetch s = .ok (i, s1) → step s = exec i s1)) ∧
  (∀ (s : State) (v : Byte) (w : Addr),
    runHostActs [] s = .ok s ∧
    runHostActs [.setA v, .setPc w] s = .ok { s with a := v, pc := w } ∧
    runHostActs [.setX v, .setY v, .setSp v, .setP v] s = .ok { s with x := v, y := v, sp := v, p := v } ∧
    runHostActs [.setPpuAddr w, .setPpuCtrl v, .setPpuMask v] s =
      .ok { s with ppu := { s.ppu with addr := w, ctrl := v, mask := v } } ∧
    runHostActs [.setScrollX v, .setScrollY v, .setReadBuffer v] s =
      .ok { s with ppu := { s.ppu with scrollX := v, scrollY := v, readBuffer := v } } ∧
    (∀ l m, runHostActs [.setAddrLatch l, .setScrollLatch m] s =
      .ok { s with ppu := { s.ppu with addrLatch := l, scrollLatch := m } }) ∧
    (∀ k, runHostActs [.setVram k v] s =
      .ok { s with ppu := { s.ppu with vram := s.ppu.vram.write k v } }) ∧
    (∀ k, runHostActs [.setPalette k v] s =
      .ok { s with ppu := { s.ppu with palette := s.ppu.palette.write k v } }) ∧
    (∀ k, runHostActs [.setOam k v] s =
      .ok { s with ppu := { s.ppu with oam := s.ppu.oam.write k v } }) ∧
    runHostActs [.setRun .halted] s = .ok { s with run := .halted } ∧
    runHostActs [.setRun .running] s = .ok { s with run := .running } ∧
    (∀ f, runHostActs [.setRun (.fatal f)] s = .error f) ∧
    runHostActs [.busWrite w v] s = busWrite w v s ∧
    (∀ t, busRead w s = .ok (v, t) → runHostActs [.busRead w] s = .ok t) ∧
    (∀ f, busRead w s = .error f → runHostActs [.busRead w] s = .error f) ∧
    runHostActs [.reset] s = .ok (cpuReset s))

/-- R48: no step is taken from Halted until the host runs the loop again; Fatal is absorbing. The
stutter is the model's choice (log 5). Rests on the spec's own decision D20 (log 7). -/
def Obligations.NoStepIsTakenOutsideRunning : Prop :=
  ∀ s : State, (s.run = .halted → step s = .next s) ∧ (∀ f, s.run = .fatal f → step s = .fault f)

/-- R154: the run stops in exactly two ways, a BRK or a fatal. Rests on the spec's own decision D5
(log 7). -/
def Obligations.OnlyBrkStopsTheRun : Prop :=
  ∀ (i : Instr) (s t : State), exec i s = .next t → t.run = if i = .brk then .halted else s.run

/-- R345: the first fatal met in the order of accesses. R151: operand bytes are fetched by the
ordinary bus read. Rests on the spec's own decision D19 (log 7). -/
def Obligations.FetchFatalsEndTheStep : Prop :=
  ∀ s : State, s.run = .running → s.host = .identity →
    (∀ f, busRead s.pc s = .error f → step s = .fault f) ∧
    (∀ opc s1, busRead s.pc s = .ok (opc, s1) →
      (∀ f, 1 ≤ operandReads (instrAt opc 0 0) s.p → busRead (s.pc + 1) s1 = .error f →
        step s = .fault f) ∧
      (∀ b1 s2 f, 2 ≤ operandReads (instrAt opc 0 0) s.p → busRead (s.pc + 1) s1 = .ok (b1, s2) →
        busRead (s.pc + 2) s2 = .error f → step s = .fault f))

/-- R260: when the branch is not taken the displacement byte is not read. R301: the operand byte is
not read from the bus. Rests on the spec's own decisions D10 and D27 (log 7). -/
def Obligations.UnreadOperandByteIsSkipped : Prop :=
  ∀ (s s1 : State) (opc : Byte), s.run = .running → s.host = .identity → busRead s.pc s = .ok (opc, s1) →
    (opc = 0x90 ∧ flag s.p .c = true ∨ opc = 0xB0 ∧ flag s.p .c = false ∨
      opc = 0xF0 ∧ flag s.p .z = false ∨ opc = 0xD0 ∧ flag s.p .z = true ∨
      opc = 0x30 ∧ flag s.p .n = false ∨ opc = 0x10 ∧ flag s.p .n = true ∨
      opc = 0x50 ∧ flag s.p .v = true ∨ opc = 0x70 ∧ flag s.p .v = false ∨
      opc ∈ skbBytes) →
    step s = .next { s1 with pc := s.pc + 2 }

/-- R125: the step raises Fatal(UnknownOpcode, {opcode, address of the opcode}). R317: raise
Fatal(Kil, {opc, opaddr}). Rests on the spec's own decisions D6 and D20 (log 7). -/
def Obligations.UnassignedAndKilBytesAreFatal : Prop :=
  (∀ (s : State) (opc : Byte), exec (.unknown opc) s = .fault (.unknownOpcode opc s.pc) ∧
    exec (.kil opc) s = .fault (.kil opc s.pc)) ∧
  (∀ (s s1 : State) (opc : Byte), s.run = .running → s.host = .identity → busRead s.pc s = .ok (opc, s1) →
    (opc ∈ unassignedBytes → step s = .fault (.unknownOpcode opc s.pc)) ∧
    (opc ∈ kilBytes → step s = .fault (.kil opc s.pc)))

/-- R164: with the table of opcode_table.json ResolveNone is unreachable. R350: every instruction is
available at all times. That nothing at all is refused rests also on log 8: AHX, SHX, SHY and TAS
have an effect where R319 and U4 let a model refuse them. Rests on the spec's own decision D21 (one
mode) (log 7). -/
def Obligations.NothingRefusedAndResolveNoneUnreachable : Prop :=
  ∀ (i : Instr) (s : State), (∀ r, exec i s ≠ .refused r) ∧
    (i.wf = true → ∀ a, exec i s ≠ .fault (.resolveNone a))

/-- R66. Read-back needs the array in canonical form, the invariant of StepKeepsStateCanonical. -/
def Obligations.RamCellThroughItsMirrors : Prop :=
  ∀ (s : State) (a : Addr) (v : Byte), a ≤ 0x1FFF →
    busRead a s = .ok (s.cpuRam.read (a.toNat % 2048), s) ∧
    busWrite a v s = .ok { s with cpuRam := s.cpuRam.write (a.toNat % 2048) v } ∧
    (s.cpuRam.wf = true → ∀ t, busWrite a v s = .ok t → ∀ b : Addr, b ≤ 0x1FFF →
      busRead b t = .ok (if b.toNat % 2048 = a.toNat % 2048 then v else s.cpuRam.read (b.toNat % 2048), t))

/-- The Read column of R61's map, with the range and existence of the data port's cell from R84.
Rests on the spec's own decisions D11 ($2002), D12 ($2003, $2004, $4014), D13 (unmapped), D15
(ppu_addr from $4000 on), D17 (no CHR byte), D18 (FourScreen) and D20 (the address a fatal carries)
(log 7). -/
def Obligations.BusReadCompletesExactlyWhere : Prop :=
  ∀ (addr : Addr) (s : State),
    (Readable addr s ↔ ∃ v t, busRead addr s = .ok (v, t)) ∧
    (¬ Readable addr s → ¬ IsDataPort addr → busRead addr s = .error (.busReadViolation addr))

/-- The Write column of R61's map. Rests on the spec's own decisions D11 ($2002), D12 ($2003, $2004,
$4014), D13 (unmapped), D15 (ppu_addr from $4000 on), D18 (FourScreen) and D20 (the address a fatal
carries) (log 7). -/
def Obligations.BusWriteCompletesExactlyWhere : Prop :=
  ∀ (addr : Addr) (v : Byte) (s : State),
    (Writable addr s ↔ ∃ t, busWrite addr v s = .ok t) ∧
    (¬ Writable addr s → ¬ IsDataPort addr → busWrite addr v s = .error (.busWriteViolation addr))

/-- R67 (the access behaves exactly as the same access to reg), R70, R71, R72, R75. Rests on the
spec's own decision D11 ($2002) (log 7). -/
def Obligations.CtrlMaskStatusScrollAccess : Prop :=
  ∀ (addr : Addr) (v : Byte) (s : State), InPpu addr →
    (addr &&& 0x2007 = 0x2000 →
      busWrite addr v s = .ok { s with ppu := { s.ppu with ctrl := v } } ∧
      busRead addr s = .error (.busReadViolation addr)) ∧
    (addr &&& 0x2007 = 0x2001 →
      busWrite addr v s = .ok { s with ppu := { s.ppu with mask := v } } ∧
      busRead addr s = .error (.busReadViolation addr)) ∧
    (addr &&& 0x2007 = 0x2002 →
      busRead addr s = .ok (0x00, s) ∧ busWrite addr v s = .error (.busWriteViolation addr)) ∧
    (addr &&& 0x2007 = 0x2005 →
      busRead addr s = .error (.busReadViolation addr) ∧
      (s.ppu.scrollLatch = .x →
        busWrite addr v s = .ok { s with ppu := { s.ppu with scrollX := v, scrollLatch := .y } }) ∧
      (s.ppu.scrollLatch = .y →
        busWrite addr v s = .ok { s with ppu := { s.ppu with scrollY := v, scrollLatch := .x } })) ∧
    (addr &&& 0x2007 = 0x2000 ∨ addr &&& 0x2007 = 0x2001 ∨ addr &&& 0x2007 = 0x2002 ∨
      addr &&& 0x2007 = 0x2003 ∨ addr &&& 0x2007 = 0x2004 ∨ addr &&& 0x2007 = 0x2005 ∨
      addr &&& 0x2007 = 0x2006 ∨ addr &&& 0x2007 = 0x2007) ∧
    (∀ f, busRead addr s = .error f → ∃ g, busRead (addr &&& 0x2007) s = .error g ∧ f.code = g.code) ∧
    (∀ f, busWrite addr v s = .error f →
      ∃ g, busWrite (addr &&& 0x2007) v s = .error g ∧ f.code = g.code) ∧
    (∀ b t, busRead addr s = .ok (b, t) ↔ busRead (addr &&& 0x2007) s = .ok (b, t)) ∧
    (∀ t, busWrite addr v s = .ok t ↔ busWrite (addr &&& 0x2007) v s = .ok t)

/-- R73, R74, R78, R79. Rests on the spec's own decisions D12 and D13 (log 7). -/
def Obligations.OamPortsAndUnmappedAreFatal : Prop :=
  ∀ (addr : Addr) (v : Byte) (s : State),
    InPpu addr ∧ (addr &&& 0x2007 = 0x2003 ∨ addr &&& 0x2007 = 0x2004) ∨
      0x4000 ≤ addr ∧ addr ≤ 0x7FFF →
    busRead addr s = .error (.busReadViolation addr) ∧
    busWrite addr v s = .error (.busWriteViolation addr)

/-- R76. Rests on the spec's own decision D15 (the half not written stays) (log 7). -/
def Obligations.AddrRegisterIsTwoWritesHighFirst : Prop :=
  ∀ (addr : Addr) (v w : Byte) (s : State), InPpu addr → addr &&& 0x2007 = 0x2006 →
    (s.ppu.addrLatch = .hi →
      busWrite addr v s = .ok { s with ppu :=
        { s.ppu with addr := v ++ s.ppu.addr.extractLsb' 0 8, addrLatch := .lo } }) ∧
    (s.ppu.addrLatch = .lo →
      busWrite addr v s = .ok { s with ppu :=
        { s.ppu with addr := s.ppu.addr.extractLsb' 8 8 ++ v, addrLatch := .hi } }) ∧
    (s.ppu.addrLatch = .hi → ∀ t, busWrite addr v s = .ok t →
      busWrite addr w t = .ok { s with ppu := { s.ppu with addr := v ++ w } }) ∧
    busRead addr s = .error (.busReadViolation addr)

/-- R84 with R86, R88, R89 and R90; the last clause is R102. Rests on the spec's own decisions D15
(ppu_addr from $4000 on), D16 (palette reads), D17 (no CHR byte) and D18 (FourScreen) (log 7). -/
def Obligations.DataPortReadByRange : Prop :=
  ∀ (addr : Addr) (s : State),
    (IsDataPort addr →
      let u := s.ppu
      let inc : Addr := if u.ctrl.getLsbD 2 then 32 else 1
      (u.addr ≤ 0x1FFF → u.addr.toNat < 8192 * s.cart.chrBanks →
        busRead addr s = .ok (u.readBuffer, { s with ppu :=
          { u with addr := u.addr + inc, readBuffer := s.cart.chr.read u.addr.toNat } })) ∧
      (u.addr ≤ 0x1FFF → 8192 * s.cart.chrBanks ≤ u.addr.toNat →
        busRead addr s = .error (.ppuChrOutOfRange u.addr)) ∧
      (0x2000 ≤ u.addr → u.addr ≤ 0x2FFF → ∀ k, mirrorVramAddr s.cart.mirroring u.addr = some k →
        (k < 2048 → busRead addr s = .ok (u.readBuffer, { s with ppu :=
          { u with addr := u.addr + inc, readBuffer := u.vram.read k } })) ∧
        (2048 ≤ k → busRead addr s = .error (.ppuVramIndexOutOfRange u.addr))) ∧
      (0x3000 ≤ u.addr → u.addr ≤ 0x3EFF → busRead addr s = .error (.ppuUnusedRange u.addr)) ∧
      (0x3F00 ≤ u.addr → u.addr ≤ 0x3FFF →
        busRead addr s = .ok (u.palette.read (palIndex u.addr),
          { s with ppu := { u with addr := u.addr + inc } })) ∧
      (0x4000 ≤ u.addr → busRead addr s = .error (.ppuAddrOutOfRange u.addr))) ∧
    (¬ IsDataPort addr → ∀ v t, busRead addr s = .ok (v, t) → t = s)

/-- R85 with R91, R93 and R94. Rests on the spec's own decisions D15 (ppu_addr from $4000 on), D16
(the fold of $3F20 to $3FFF) and D18 (FourScreen) (log 7). -/
def Obligations.DataPortWriteByRange : Prop :=
  ∀ (addr : Addr) (v : Byte) (s : State), IsDataPort addr →
    let u := s.ppu
    let inc : Addr := if u.ctrl.getLsbD 2 then 32 else 1
    (u.addr ≤ 0x1FFF → busWrite addr v s = .error (.ppuChrWrite u.addr)) ∧
    (0x2000 ≤ u.addr → u.addr ≤ 0x2FFF → ∀ k, mirrorVramAddr s.cart.mirroring u.addr = some k →
      (k < 2048 → busWrite addr v s = .ok { s with ppu :=
        { u with addr := u.addr + inc, vram := u.vram.write k v } }) ∧
      (2048 ≤ k → busWrite addr v s = .error (.ppuVramIndexOutOfRange u.addr))) ∧
    (0x3000 ≤ u.addr → u.addr ≤ 0x3EFF → busWrite addr v s = .error (.ppuUnusedRange u.addr)) ∧
    (0x3F00 ≤ u.addr → u.addr ≤ 0x3FFF →
      busWrite addr v s = .ok { s with ppu :=
        { u with addr := u.addr + inc, palette := u.palette.write (palIndex u.addr) v } }) ∧
    (0x4000 ≤ u.addr → busWrite addr v s = .error (.ppuAddrOutOfRange u.addr))

/-- R96, and scenario 6 of the source that it quotes. Read-back needs the array in canonical form.
Rests on the spec's own decision D16 (log 7). -/
def Obligations.PaletteAliasesShareACell : Prop :=
  (∀ a : Addr, 0x3F00 ≤ a → a ≤ 0x3FFF →
    palIndex a = if a.toNat % 32 = 16 ∨ a.toNat % 32 = 20 ∨ a.toNat % 32 = 24 ∨ a.toNat % 32 = 28
      then a.toNat % 32 - 16 else a.toNat % 32) ∧
  (∀ (port b : Addr) (v : Byte) (s t : State), IsDataPort port → s.ppu.palette.wf = true →
    0x3F00 ≤ s.ppu.addr → s.ppu.addr ≤ 0x3FFF → 0x3F00 ≤ b → b ≤ 0x3FFF →
    busWrite port v s = .ok t →
    ∃ t', busRead port { t with ppu := { t.ppu with addr := b } } =
      .ok (if palIndex b = palIndex s.ppu.addr then v else s.ppu.palette.read (palIndex b), t'))

/-- R92. Rests on the spec's own decision D18 (FourScreen) (log 7). -/
def Obligations.NametableMirroring : Prop :=
  (∀ a : Addr, 0x2000 ≤ a → a ≤ 0x2FFF →
    let i := a.toNat - 0x2000
    mirrorVramAddr .horizontal a = some (i / 0x800 * 0x400 + i % 0x400) ∧
    mirrorVramAddr .vertical a = some (i % 0x800) ∧
    mirrorVramAddr .fourScreen a = some i ∧
    (vramIndex .fourScreen a = if i < 2048 then .ok i else .error (.ppuVramIndexOutOfRange a))) ∧
  (∀ (m : Mirroring) (a : Addr), 0x3000 ≤ a → a ≤ 0x3EFF →
    mirrorVramAddr m a = mirrorVramAddr m (a - 0x1000)) ∧
  (∀ (m : Mirroring) (a : Addr), m ≠ .fourScreen → 0x2000 ≤ a → a ≤ 0x3EFF →
    ∃ k, mirrorVramAddr m a = some k ∧ k < 2048)

/-- R98. -/
def Obligations.PrgRomIsReadOnlyAndMirrored : Prop :=
  ∀ (addr : Addr) (v : Byte) (s : State), 0x8000 ≤ addr →
    (s.cart.prgBanks = .two → busRead addr s = .ok (s.cart.prg.read (addr.toNat - 0x8000), s)) ∧
    (s.cart.prgBanks = .one →
      busRead addr s = .ok (s.cart.prg.read ((addr.toNat - 0x8000) % 16384), s) ∧
      (0xC000 ≤ addr → busRead addr s = busRead (addr - 0x4000) s)) ∧
    busWrite addr v s = .error (.busWriteViolation addr)

/-- R64; the write is R65. Rests on the spec's own decisions D19 (low byte first) and D26 (wrap)
(log 7). -/
def Obligations.WordReadIsTwoByteReads : Prop :=
  ∀ (addr w : Addr) (s : State),
    (∀ l s1 h s2, busRead addr s = .ok (l, s1) → busRead (addr + 1) s1 = .ok (h, s2) →
      busReadWord addr s = .ok (h ++ l, s2)) ∧
    (∀ f, busRead addr s = .error f → busReadWord addr s = .error f) ∧
    (∀ l s1 f, busRead addr s = .ok (l, s1) → busRead (addr + 1) s1 = .error f →
      busReadWord addr s = .error f) ∧
    (∀ s1, busWrite addr (w.extractLsb' 0 8) s = .ok s1 →
      busWriteWord addr w s = busWrite (addr + 1) (w.extractLsb' 8 8) s1) ∧
    (∀ f, busWrite addr (w.extractLsb' 0 8) s = .error f → busWriteWord addr w s = .error f)

/-- R370, and R373 for a later reset. Rests on the spec's own decisions D28 and D34 (log 7). -/
def Obligations.HostResetSetsCpuRegistersOnly : Prop :=
  ∀ s : State, s.run = .running ∨ s.run = .halted →
    ∃ v, busReadWord 0xFFFC s = .ok (v, s) ∧
      hostReset s = .next { s with
        a := 0x00, x := 0x00, y := 0x00, sp := 0xFD, p := 0x24, pc := v, run := .running }

/-- R372, over the parameters of R8 and R9. Rests on the spec's own decisions D2 (the PPU registers
and latches) and D28 (run) (log 7). -/
def Obligations.LaunchStateIsTheInitialState : Prop :=
  ∀ (c : Cartridge) (ram vram palette oam : Memory) (host : Callback),
    let s := State.launch c (prgRead c 0xFFFD ++ prgRead c 0xFFFC) ram vram palette oam host
    s.a = 0 ∧ s.x = 0 ∧ s.y = 0 ∧ s.p = 0x24 ∧ s.sp = 0xFD ∧
    busReadWord 0xFFFC s = .ok (s.pc, s) ∧ s.run = .running ∧
    s.cpuRam = ram ∧ s.ppu.vram = vram ∧ s.ppu.oam = oam ∧ s.ppu.palette = palette ∧
    s.ppu.addr = 0 ∧ s.ppu.addrLatch = .hi ∧ s.ppu.ctrl = 0 ∧ s.ppu.mask = 0 ∧
    s.ppu.scrollX = 0 ∧ s.ppu.scrollY = 0 ∧ s.ppu.scrollLatch = .x ∧ s.ppu.readBuffer = 0 ∧
    s.cart = c ∧ s.host = host

/-- R290. Rests on the spec's own decision D5 (log 7). -/
def Obligations.BrkHaltsAndTheHostMayResume : Prop :=
  encode .brk = [0x00] ∧ ∀ s : State,
    exec .brk s = .next { s with pc := s.pc + 1, run := .halted } ∧
    ∀ t, exec .brk s = .next t → hostResume t = .next { s with pc := s.pc + 1, run := .running }

/-- R372 for the registers; the cartridge and the arrays are the model's choice (logs 1 and 2). -/
def Obligations.ResetStateMeetsTheInvariants : Prop :=
  State.reset = State.launch Config.defaultCartridge
    (prgRead Config.defaultCartridge 0xFFFD ++ prgRead Config.defaultCartridge 0xFFFC) [] [] [] [] .identity ∧
  stateWf State.reset = true ∧ breakBits State.reset.p = true ∧ hostKeepsP State.reset

/-- The sizes are R41, R42, R43 and R46; the canonical form is the model's own (log 1). The step
includes a host call, whatever its effects: each array effect names an index inside the array (log
19). Rests on the spec's own decisions D14 and D29 (log 7). -/
def Obligations.StepKeepsStateCanonical : Prop :=
  ∀ s t : State, stateWf s = true → step s = .next t → stateWf t = true

/-- R35, which the spec derives. That a call is a list of effects, of which one kind writes P, is
the model's form of the callback (logs 4 and 19, DESIGN CHOICE). Rests on the spec's own decision
D24 (log 7). -/
def Obligations.StepKeepsBreakBits : Prop :=
  ∀ s t : State, breakBits s.p = true → hostKeepsP s → step s = .next t →
    breakBits t.p = true ∧ hostKeepsP t

/-- R42: these cells are never reached by any rule. R43: oam is inert. R44, R45, R47: the cartridge
never changes. R346: the host may change any state; what a call of it can do is the list of log 19
(DESIGN CHOICE), which leaves the cartridge as the configuration that R8 makes it. Rests on the
spec's own decision D12 (log 7). -/
def Obligations.StepNeverWritesRomOamOrAliasCells : Prop :=
  ∀ s t : State, step s = .next t →
    t.cart = s.cart ∧
    ((∀ k v, HostAct.setOam k v ∉ hostCall s) → t.ppu.oam = s.ppu.oam) ∧
    ∀ k : Fin 32, k = 0x10 ∨ k = 0x14 ∨ k = 0x18 ∨ k = 0x1C →
      (∀ v, HostAct.setPalette k v ∉ hostCall s) → t.ppu.palette.read k = s.ppu.palette.read k

/-- The source's first universal invariant, quoted in R21. Rests on the spec's own decision D35
(AXS, LAS) (log 7). -/
def Obligations.EveryWriteOfAXYSetsZN : Prop :=
  ∀ (i : Instr) (s t : State), exec i s = .next t → ∀ r ∈ writesReg i, r ≠ .sp →
    flag t.p .z = (t.reg r == 0) ∧ flag t.p .n = (t.reg r).getLsbD 7

/-- R29: no rule changes its behaviour on I. R30 and R215: ADC and SBC do not read D. Rests on the
spec's own decision D22 (log 7). -/
def Obligations.InterruptAndDecimalFlagsAreInert : Prop :=
  ∀ (i : Instr) (s : State) (q : Byte), i ≠ .php →
    (∀ f, f ≠ .i → f ≠ .d → flag q f = flag s.p f) →
    (∀ t, exec i s = .next t → ∃ q', exec i { s with p := q } = .next { t with p := q' } ∧
      ∀ f, f ≠ .i → f ≠ .d → flag q' f = flag t.p f) ∧
    (∀ e, exec i s = .fault e → exec i { s with p := q } = .fault e) ∧
    (∀ r, exec i s = .refused r → exec i { s with p := q } = .refused r)

/-- R155 to R163, R165 and R166. The two immediate clauses are the model's arrangement (log 9,
DEDUCED): the step has fetched the byte already, so it is answered without a bus read, at PC + 1
with PC still at the opcode byte, where R155 and R166 have a MemRead of it. -/
def Obligations.EffectiveAddresses : Prop :=
  ∀ (s : State) (z v : Byte) (w : Addr),
    let zpByte : Byte → Byte := fun b => s.cpuRam.read b.toNat
    resolve (.imm v) s = .ok (s.pc + 1) ∧
    resolve (.zp z) s = .ok (BitVec.ofNat 16 z.toNat) ∧
    resolve (.zpx z) s = .ok (BitVec.ofNat 16 ((z.toNat + s.x.toNat) % 256)) ∧
    resolve (.zpy z) s = .ok (BitVec.ofNat 16 ((z.toNat + s.y.toNat) % 256)) ∧
    resolve (.abs w) s = .ok w ∧
    resolve (.absx w) s = .ok (BitVec.ofNat 16 (w.toNat + s.x.toNat)) ∧
    resolve (.absy w) s = .ok (BitVec.ofNat 16 (w.toNat + s.y.toNat)) ∧
    resolve (.indx z) s = .ok (zpByte (z + s.x + 1) ++ zpByte (z + s.x)) ∧
    resolve (.indy z) s = .ok (BitVec.ofNat 16 ((zpByte (z + 1) ++ zpByte z).toNat + s.y.toNat)) ∧
    readOperand (.imm v) s = .ok (v, s) ∧
    (∀ m ea, (∀ b, m ≠ .imm b) → resolve m s = .ok ea → readOperand m s = busRead ea s)

/-- R180, R181, R182, R302 and R303. -/
def Obligations.LoadsReadAndSetZN : Prop :=
  ∀ (m : Operand) (s : State), OperandReadable m s →
    ((Instr.lda m).wf = true → ∃ v s1 t, readOperand m s = .ok (v, s1) ∧ exec (.lda m) s = .next t ∧
      t = { s1 with a := v, p := t.p, pc := s.pc + BitVec.ofNat 16 m.length } ∧
      SetsZN v s.p t.p) ∧
    ((Instr.ldx m).wf = true → ∃ v s1 t, readOperand m s = .ok (v, s1) ∧ exec (.ldx m) s = .next t ∧
      t = { s1 with x := v, p := t.p, pc := s.pc + BitVec.ofNat 16 m.length } ∧
      SetsZN v s.p t.p) ∧
    ((Instr.ldy m).wf = true → ∃ v s1 t, readOperand m s = .ok (v, s1) ∧ exec (.ldy m) s = .next t ∧
      t = { s1 with y := v, p := t.p, pc := s.pc + BitVec.ofNat 16 m.length } ∧
      SetsZN v s.p t.p) ∧
    ((Instr.lax m).wf = true → ∃ v s1 t, readOperand m s = .ok (v, s1) ∧ exec (.lax m) s = .next t ∧
      t = { s1 with a := v, x := v, p := t.p, pc := s.pc + BitVec.ofNat 16 m.length } ∧
      SetsZN v s.p t.p) ∧
    (∀ opc, (Instr.ign opc m).wf = true → ∃ v s1, readOperand m s = .ok (v, s1) ∧
      exec (.ign opc m) s = .next { s1 with pc := s.pc + BitVec.ofNat 16 m.length })

/-- R183, R184, R185 and R304. -/
def Obligations.StoresWriteOneByte : Prop :=
  ∀ (m : Operand) (s : State), OperandWritable m s →
    ((Instr.sta m).wf = true → ∃ ea s1, resolve m s = .ok ea ∧ busWrite ea (s.a) s = .ok s1 ∧
      exec (.sta m) s = .next { s1 with pc := s.pc + BitVec.ofNat 16 (m).length }) ∧
    ((Instr.stx m).wf = true → ∃ ea s1, resolve m s = .ok ea ∧ busWrite ea (s.x) s = .ok s1 ∧
      exec (.stx m) s = .next { s1 with pc := s.pc + BitVec.ofNat 16 (m).length }) ∧
    ((Instr.sty m).wf = true → ∃ ea s1, resolve m s = .ok ea ∧ busWrite ea (s.y) s = .ok s1 ∧
      exec (.sty m) s = .next { s1 with pc := s.pc + BitVec.ofNat 16 (m).length }) ∧
    ((Instr.sax m).wf = true → ∃ ea s1, resolve m s = .ok ea ∧ busWrite ea (s.a &&& s.x) s = .ok s1 ∧
      exec (.sax m) s = .next { s1 with pc := s.pc + BitVec.ofNat 16 (m).length })

/-- R186 to R191. Rests on the spec's own general knowledge G3 (log 7). -/
def Obligations.TransfersCopyOneRegister : Prop :=
  (encode .tax = [0xAA] ∧ encode .tay = [0xA8] ∧ encode .txa = [0x8A] ∧ encode .tya = [0x98] ∧
    encode .tsx = [0xBA] ∧ encode .txs = [0x9A]) ∧
  ∀ s : State,
    (∃ t, exec .tax s = .next t ∧ t = { s with x := s.a, p := t.p, pc := s.pc + 1 } ∧
      SetsZN s.a s.p t.p) ∧
    (∃ t, exec .tay s = .next t ∧ t = { s with y := s.a, p := t.p, pc := s.pc + 1 } ∧
      SetsZN s.a s.p t.p) ∧
    (∃ t, exec .txa s = .next t ∧ t = { s with a := s.x, p := t.p, pc := s.pc + 1 } ∧
      SetsZN s.x s.p t.p) ∧
    (∃ t, exec .tya s = .next t ∧ t = { s with a := s.y, p := t.p, pc := s.pc + 1 } ∧
      SetsZN s.y s.p t.p) ∧
    (∃ t, exec .tsx s = .next t ∧ t = { s with x := s.sp, p := t.p, pc := s.pc + 1 } ∧
      SetsZN s.sp s.p t.p) ∧
    exec .txs s = .next { s with sp := s.x, pc := s.pc + 1 }

/-- R200, R201, R215, R216 and R311. The signed reading of V is R216's last sentence. -/
def Obligations.AdcSbcAreBinaryAddAndSubtract : Prop :=
  ∀ (m : Operand) (s : State), OperandReadable m s →
    ((Instr.adc m).wf = true → ∃ v s1 t, readOperand m s = .ok (v, s1) ∧ exec (.adc m) s = .next t ∧
      t = { s1 with a := t.a, p := t.p, pc := s.pc + BitVec.ofNat 16 m.length } ∧
      AddsWithCarry s.a v s.p t.a t.p) ∧
    ((Instr.sbc m).wf = true → ∃ v s1 t, readOperand m s = .ok (v, s1) ∧ exec (.sbc m) s = .next t ∧
      t = { s1 with a := t.a, p := t.p, pc := s.pc + BitVec.ofNat 16 m.length } ∧
      SubtractsWithBorrow s.a v s.p t.a t.p) ∧
    (∀ v, ∃ t, exec (.sbcAlias v) s = .next t ∧
      t = { s with a := t.a, p := t.p, pc := s.pc + 2 } ∧ SubtractsWithBorrow s.a v s.p t.a t.p ∧
      exec (.sbc (.imm v)) s = exec (.sbcAlias v) s)

/-- R215: V reports two's-complement overflow of ADC and SBC. R216 and R201: its formula. R311: $EB
is SBC. R306: ISC ends in the SBC of the new byte. -/
def Obligations.OverflowFlagIsSignedOverflow : Prop :=
  ∀ (m : Operand) (s : State),
    let c : Int := (flag s.p .c).toNat
    let sumV : Byte → State → Prop := fun v t =>
      flag t.p .v = decide (s.a.toInt + v.toInt + c < -128 ∨ 127 < s.a.toInt + v.toInt + c) ∧
      flag t.p .v = ((v ^^^ t.a) &&& (s.a ^^^ t.a) &&& 0x80 != 0)
    let diffV : Byte → State → Prop := fun v t =>
      flag t.p .v = decide (s.a.toInt - v.toInt - (1 - c) < -128 ∨ 127 < s.a.toInt - v.toInt - (1 - c)) ∧
      flag t.p .v = ((~~~v ^^^ t.a) &&& (s.a ^^^ t.a) &&& 0x80 != 0)
    (OperandReadable m s →
      ((Instr.adc m).wf = true → ∃ v s1 t, readOperand m s = .ok (v, s1) ∧
        exec (.adc m) s = .next t ∧ sumV v t) ∧
      ((Instr.sbc m).wf = true → ∃ v s1 t, readOperand m s = .ok (v, s1) ∧
        exec (.sbc m) s = .next t ∧ diffV v t)) ∧
    (∀ v, ∃ t, exec (.sbcAlias v) s = .next t ∧ diffV v t) ∧
    (OperandModifiable m s → (Instr.isc m).wf = true → ∃ ea old s1 s2 t, resolve m s = .ok ea ∧
      busRead ea s = .ok (old, s1) ∧ busWrite ea (old + 1) s1 = .ok s2 ∧
      exec (.isc m) s = .next t ∧ diffV (old + 1) t)

/-- R202 to R205. -/
def Obligations.LogicAndBitTest : Prop :=
  ∀ (m : Operand) (s : State), OperandReadable m s →
    ((Instr.and m).wf = true → ∃ v s1 t, readOperand m s = .ok (v, s1) ∧ exec (.and m) s = .next t ∧
      t = { s1 with a := s.a &&& v, p := t.p, pc := s.pc + BitVec.ofNat 16 m.length } ∧
      SetsZN (s.a &&& v) s.p t.p) ∧
    ((Instr.ora m).wf = true → ∃ v s1 t, readOperand m s = .ok (v, s1) ∧ exec (.ora m) s = .next t ∧
      t = { s1 with a := s.a ||| v, p := t.p, pc := s.pc + BitVec.ofNat 16 m.length } ∧
      SetsZN (s.a ||| v) s.p t.p) ∧
    ((Instr.eor m).wf = true → ∃ v s1 t, readOperand m s = .ok (v, s1) ∧ exec (.eor m) s = .next t ∧
      t = { s1 with a := s.a ^^^ v, p := t.p, pc := s.pc + BitVec.ofNat 16 m.length } ∧
      SetsZN (s.a ^^^ v) s.p t.p) ∧
    ((Instr.bit m).wf = true → ∃ v s1 t, readOperand m s = .ok (v, s1) ∧ exec (.bit m) s = .next t ∧
      t = { s1 with p := t.p, pc := s.pc + BitVec.ofNat 16 m.length } ∧
      flag t.p .z = (s.a &&& v == 0) ∧
      flag t.p .n = v.getLsbD 7 ∧ flag t.p .v = v.getLsbD 6 ∧
      ∀ f, f ≠ .z → f ≠ .n → f ≠ .v → flag t.p f = flag s.p f)

/-- R206, R207 and R208. -/
def Obligations.ComparesSetCZN : Prop :=
  ∀ (m : Operand) (s : State), OperandReadable m s →
    ((Instr.cmp m).wf = true → ∃ v s1 t, readOperand m s = .ok (v, s1) ∧ exec (.cmp m) s = .next t ∧
      t = { s1 with p := t.p, pc := s.pc + BitVec.ofNat 16 m.length } ∧
      SetsCZN (decide (v.toNat ≤ s.a.toNat)) (s.a - v) s.p t.p) ∧
    ((Instr.cpx m).wf = true → ∃ v s1 t, readOperand m s = .ok (v, s1) ∧ exec (.cpx m) s = .next t ∧
      t = { s1 with p := t.p, pc := s.pc + BitVec.ofNat 16 m.length } ∧
      SetsCZN (decide (v.toNat ≤ s.x.toNat)) (s.x - v) s.p t.p) ∧
    ((Instr.cpy m).wf = true → ∃ v s1 t, readOperand m s = .ok (v, s1) ∧ exec (.cpy m) s = .next t ∧
      t = { s1 with p := t.p, pc := s.pc + BitVec.ofNat 16 m.length } ∧
      SetsCZN (decide (v.toNat ≤ s.y.toNat)) (s.y - v) s.p t.p)

/-- R209, R210, R305 and R306. -/
def Obligations.IncrementAndDecrementMemory : Prop :=
  ∀ (m : Operand) (s : State), OperandModifiable m s →
    ((Instr.inc m).wf = true → ∃ ea old s1 s2 t, resolve m s = .ok ea ∧ busRead ea s = .ok (old, s1) ∧
      busWrite ea (old + 1) s1 = .ok s2 ∧ exec (.inc m) s = .next t ∧
      t = { s2 with p := t.p, pc := s.pc + BitVec.ofNat 16 m.length } ∧
      SetsZN (old + 1) s.p t.p) ∧
    ((Instr.dec m).wf = true → ∃ ea old s1 s2 t, resolve m s = .ok ea ∧ busRead ea s = .ok (old, s1) ∧
      busWrite ea (old - 1) s1 = .ok s2 ∧ exec (.dec m) s = .next t ∧
      t = { s2 with p := t.p, pc := s.pc + BitVec.ofNat 16 m.length } ∧
      SetsZN (old - 1) s.p t.p) ∧
    ((Instr.dcp m).wf = true → ∃ ea old s1 s2 t, resolve m s = .ok ea ∧ busRead ea s = .ok (old, s1) ∧
      busWrite ea (old - 1) s1 = .ok s2 ∧ exec (.dcp m) s = .next t ∧
      t = { s2 with p := t.p, pc := s.pc + BitVec.ofNat 16 m.length } ∧
      SetsCZN (decide ((old - 1).toNat ≤ s.a.toNat)) (s.a - (old - 1)) s.p t.p) ∧
    ((Instr.isc m).wf = true → ∃ ea old s1 s2 t, resolve m s = .ok ea ∧ busRead ea s = .ok (old, s1) ∧
      busWrite ea (old + 1) s1 = .ok s2 ∧ exec (.isc m) s = .next t ∧
      t = { s2 with a := t.a, p := t.p, pc := s.pc + BitVec.ofNat 16 m.length } ∧
      SubtractsWithBorrow s.a (old + 1) s.p t.a t.p)

/-- R211 to R214. -/
def Obligations.IncrementAndDecrementIndex : Prop :=
  (encode .inx = [0xE8] ∧ encode .iny = [0xC8] ∧ encode .dex = [0xCA] ∧ encode .dey = [0x88]) ∧
  ∀ s : State,
    (∃ t, exec .inx s = .next t ∧ t = { s with x := s.x + 1, p := t.p, pc := s.pc + 1 } ∧
      SetsZN (s.x + 1) s.p t.p) ∧
    (∃ t, exec .iny s = .next t ∧ t = { s with y := s.y + 1, p := t.p, pc := s.pc + 1 } ∧
      SetsZN (s.y + 1) s.p t.p) ∧
    (∃ t, exec .dex s = .next t ∧ t = { s with x := s.x - 1, p := t.p, pc := s.pc + 1 } ∧
      SetsZN (s.x - 1) s.p t.p) ∧
    (∃ t, exec .dey s = .next t ∧ t = { s with y := s.y - 1, p := t.p, pc := s.pc + 1 } ∧
      SetsZN (s.y - 1) s.p t.p)

/-- R230 to R234. -/
def Obligations.ShiftsAndRotates : Prop :=
  ∀ s : State,
    (∃ t, exec (.asl .acc) s = .next t ∧
      t = { s with a := s.a + s.a, p := t.p, pc := s.pc + 1 } ∧
      SetsCZN (s.a.getLsbD 7) (s.a + s.a) s.p t.p) ∧
    (∃ t, exec (.lsr .acc) s = .next t ∧
      t = { s with a := s.a >>> 1, p := t.p, pc := s.pc + 1 } ∧
      SetsCZN (s.a.getLsbD 0) (s.a >>> 1) s.p t.p) ∧
    (∃ t, exec (.rol .acc) s = .next t ∧
      t = { s with a := s.a + s.a + (if flag s.p .c then 1 else 0), p := t.p, pc := s.pc + 1 } ∧
      SetsCZN (s.a.getLsbD 7) (s.a + s.a + (if flag s.p .c then 1 else 0)) s.p t.p) ∧
    (∃ t, exec (.ror .acc) s = .next t ∧
      t = { s with a := s.a >>> 1 + (if flag s.p .c then 0x80 else 0), p := t.p, pc := s.pc + 1 } ∧
      SetsCZN (s.a.getLsbD 0) (s.a >>> 1 + (if flag s.p .c then 0x80 else 0)) s.p t.p) ∧
    (∀ m : Operand, m ≠ .acc → OperandModifiable m s →
      ((Instr.asl m).wf = true → ∃ ea old s1 s2 t, resolve m s = .ok ea ∧ busRead ea s = .ok (old, s1) ∧
        busWrite ea (old + old) s1 = .ok s2 ∧ exec (.asl m) s = .next t ∧
        t = { s2 with p := t.p, pc := s.pc + BitVec.ofNat 16 m.length } ∧
        SetsCZN (old.getLsbD 7) (old + old) s.p t.p) ∧
      ((Instr.lsr m).wf = true → ∃ ea old s1 s2 t, resolve m s = .ok ea ∧ busRead ea s = .ok (old, s1) ∧
        busWrite ea (old >>> 1) s1 = .ok s2 ∧ exec (.lsr m) s = .next t ∧
        t = { s2 with p := t.p, pc := s.pc + BitVec.ofNat 16 m.length } ∧
        SetsCZN (old.getLsbD 0) (old >>> 1) s.p t.p) ∧
      ((Instr.rol m).wf = true → ∃ ea old s1 s2 t, resolve m s = .ok ea ∧ busRead ea s = .ok (old, s1) ∧
        busWrite ea (old + old + (if flag s.p .c then 1 else 0)) s1 = .ok s2 ∧ exec (.rol m) s = .next t ∧
        t = { s2 with p := t.p, pc := s.pc + BitVec.ofNat 16 m.length } ∧
        SetsCZN (old.getLsbD 7) (old + old + (if flag s.p .c then 1 else 0)) s.p t.p) ∧
      ((Instr.ror m).wf = true → ∃ ea old s1 s2 t, resolve m s = .ok ea ∧ busRead ea s = .ok (old, s1) ∧
        busWrite ea (old >>> 1 + (if flag s.p .c then 0x80 else 0)) s1 = .ok s2 ∧ exec (.ror m) s = .next t ∧
        t = { s2 with p := t.p, pc := s.pc + BitVec.ofNat 16 m.length } ∧
        SetsCZN (old.getLsbD 0) (old >>> 1 + (if flag s.p .c then 0x80 else 0)) s.p t.p))

/-- R240, R241, R244 to R247. Rests on the spec's own decisions D24 and D25 (log 7). -/
def Obligations.PushesAndPulls : Prop :=
  (encode .pha = [0x48] ∧ encode .pla = [0x68] ∧ encode .php = [0x08] ∧ encode .plp = [0x28]) ∧
  ∀ s : State,
    let top := s.cpuRam.read (0x100 + (s.sp.toNat + 1) % 256)
    exec .pha s = .next { s with
      cpuRam := s.cpuRam.write (0x100 + s.sp.toNat) s.a, sp := s.sp - 1, pc := s.pc + 1 } ∧
    exec .php s = .next { s with
      cpuRam := s.cpuRam.write (0x100 + s.sp.toNat) (s.p ||| 0x30), sp := s.sp - 1, pc := s.pc + 1 } ∧
    (∃ t, exec .pla s = .next t ∧
      t = { s with a := top, sp := s.sp + 1, p := t.p, pc := s.pc + 1 } ∧ SetsZN top s.p t.p) ∧
    exec .plp s = .next { s with sp := s.sp + 1, p := (top &&& 0xEF) ||| 0x20, pc := s.pc + 1 }

/-- R242, R243, R248, R249, R250 and R348. Rests on the spec's own decisions D24 and D25 (log 7). -/
def Obligations.CallAndReturns : Prop :=
  ∀ (s : State) (w : Addr),
    let cell : Nat → Byte := fun n => s.cpuRam.read (0x100 + (s.sp.toNat + n) % 256)
    exec (.jsr w) s = .next { s with
      cpuRam := (s.cpuRam.write (0x100 + s.sp.toNat) ((s.pc + 2).extractLsb' 8 8)).write
        (0x100 + (s.sp.toNat + 255) % 256) ((s.pc + 2).extractLsb' 0 8)
      sp := s.sp - 2, pc := w } ∧
    exec .rts s = .next { s with sp := s.sp + 2, pc := cell 2 ++ cell 1 + 1 } ∧
    exec .rti s = .next { s with
      p := (cell 1 &&& 0xEF) ||| 0x20, sp := s.sp + 3, pc := cell 3 ++ cell 2 }

/-- The source's law quoted in R241, R247's corner case, and R248 with R249. Rests on the spec's own
decisions D24 and D25 (log 7). -/
def Obligations.StackPairsRestore : Prop :=
  ∀ s : State, s.cpuRam.wf = true →
    (∀ v, (pop (push v s)).1 = v ∧ (pop (push v s)).2.sp = s.sp ∧
      (pop (push v s)).2.cpuRam = (push v s).cpuRam) ∧
    (∀ w, (popWord (pushWord w s)).1 = w ∧ (popWord (pushWord w s)).2.sp = s.sp) ∧
    (breakBits s.p = true → ∀ t, exec .php s = .next t →
      exec .plp t = .next { t with sp := s.sp, p := s.p, pc := s.pc + 2 }) ∧
    (∀ w t u, exec (.jsr w) s = .next t → u.cpuRam = t.cpuRam → u.sp = t.sp →
      exec .rts u = .next { u with sp := s.sp, pc := s.pc + 3 })

/-- R260 to R268. Rests on the spec's own decision D4 (log 7). -/
def Obligations.BranchesTestOneFlag : Prop :=
  ∀ (s : State) (d : Byte),
    let goes : Bool → Host.Outcome State Fault Refusal := fun taken => .next { s with
      pc := if taken then BitVec.ofInt 16 ((s.pc.toNat : Int) + 2 + d.toInt) else s.pc + 2 }
    exec (.bcc d) s = goes (flag s.p .c == false) ∧ encode (.bcc d) = [0x90, d] ∧
    exec (.bcs d) s = goes (flag s.p .c == true) ∧ encode (.bcs d) = [0xB0, d] ∧
    exec (.beq d) s = goes (flag s.p .z == true) ∧ encode (.beq d) = [0xF0, d] ∧
    exec (.bne d) s = goes (flag s.p .z == false) ∧ encode (.bne d) = [0xD0, d] ∧
    exec (.bmi d) s = goes (flag s.p .n == true) ∧ encode (.bmi d) = [0x30, d] ∧
    exec (.bpl d) s = goes (flag s.p .n == false) ∧ encode (.bpl d) = [0x10, d] ∧
    exec (.bvc d) s = goes (flag s.p .v == false) ∧ encode (.bvc d) = [0x50, d] ∧
    exec (.bvs d) s = goes (flag s.p .v == true) ∧ encode (.bvs d) = [0x70, d]

/-- R280 and R281. A pointer byte in the data port never completes: the other byte is then at a
write-only register. Rests on the spec's own decision D4 (log 7). -/
def Obligations.JumpsLoadPc : Prop :=
  ∀ (s : State) (w : Addr),
    exec (.jmp w) s = .next { s with pc := w } ∧
    (let next := if w &&& 0x00FF = 0x00FF then w &&& 0xFF00 else w + 1
     Readable w s → Readable next s →
      ∃ l h, busRead w s = .ok (l, s) ∧ busRead next s = .ok (h, s) ∧
        exec (.jmpInd w) s = .next { s with pc := h ++ l })

/-- R282 to R288; the rules for CLI, SED and CLV hold corner cases beyond this statement. -/
def Obligations.FlagInstructionsWriteOneFlag : Prop :=
  (encode .clc = [0x18] ∧ encode .sec = [0x38] ∧ encode .cli = [0x58] ∧ encode .sei = [0x78] ∧
    encode .cld = [0xD8] ∧ encode .sed = [0xF8] ∧ encode .clv = [0xB8]) ∧
  ∀ s : State,
    (∃ t, exec .clc s = .next t ∧ t = { s with p := t.p, pc := s.pc + 1 } ∧ SetsFlag .c false s.p t.p) ∧
    (∃ t, exec .sec s = .next t ∧ t = { s with p := t.p, pc := s.pc + 1 } ∧ SetsFlag .c true s.p t.p) ∧
    (∃ t, exec .cli s = .next t ∧ t = { s with p := t.p, pc := s.pc + 1 } ∧ SetsFlag .i false s.p t.p) ∧
    (∃ t, exec .sei s = .next t ∧ t = { s with p := t.p, pc := s.pc + 1 } ∧ SetsFlag .i true s.p t.p) ∧
    (∃ t, exec .cld s = .next t ∧ t = { s with p := t.p, pc := s.pc + 1 } ∧ SetsFlag .d false s.p t.p) ∧
    (∃ t, exec .sed s = .next t ∧ t = { s with p := t.p, pc := s.pc + 1 } ∧ SetsFlag .d true s.p t.p) ∧
    (∃ t, exec .clv s = .next t ∧ t = { s with p := t.p, pc := s.pc + 1 } ∧ SetsFlag .v false s.p t.p)

/-- R289, R300 and R301. Rests on the spec's own decision D10 (log 7). -/
def Obligations.NoOperationsOnlyAdvancePc : Prop :=
  encode .nop = [0xEA] ∧ ∀ (s : State) (opc v : Byte),
    exec .nop s = .next { s with pc := s.pc + 1 } ∧
    exec (.nopIllegal opc) s = .next { s with pc := s.pc + 1 } ∧
    exec (.skb opc v) s = .next { s with pc := s.pc + 2 }

/-- R307 to R310 and R318. Rests on the spec's own decision D35 (AXS) (log 7). -/
def Obligations.ImmediateCombinations : Prop :=
  ∀ (s : State) (opc m : Byte),
    let r := (s.a &&& m) >>> 1 + (if flag s.p .c then 0x80 else 0)
    (∃ t, exec (.anc opc m) s = .next t ∧ t = { s with a := s.a &&& m, p := t.p, pc := s.pc + 2 } ∧
      SetsCZN ((s.a &&& m).getLsbD 7) (s.a &&& m) s.p t.p) ∧
    (∃ t, exec (.alr m) s = .next t ∧
      t = { s with a := (s.a &&& m) >>> 1, p := t.p, pc := s.pc + 2 } ∧
      SetsCZN ((s.a &&& m).getLsbD 0) ((s.a &&& m) >>> 1) s.p t.p) ∧
    (∃ t, exec (.arr m) s = .next t ∧ t = { s with a := r, p := t.p, pc := s.pc + 2 } ∧
      SetsCVZN (r.getLsbD 6) (r.getLsbD 6 != r.getLsbD 5) r s.p t.p) ∧
    (∃ t, exec (.axs m) s = .next t ∧
      t = { s with x := (s.a &&& s.x) - m, p := t.p, pc := s.pc + 2 } ∧
      SetsCZN (decide (m.toNat ≤ (s.a &&& s.x).toNat)) ((s.a &&& s.x) - m) s.p t.p)

/-- R312 to R316 and R319. Rests on the spec's own decisions D8, D9, D31 and D35 (logs 7 and 8). -/
def Obligations.LasAndHighByteStores : Prop :=
  ∀ (m : Operand) (w : Addr) (s : State),
    let mask : Addr → Byte := fun ea => ea.extractLsb' 8 8 + 1
    (OperandReadable (.absy w) s → ∃ v s1 t, readOperand (.absy w) s = .ok (v, s1) ∧
      exec (.las w) s = .next t ∧
      t = { s1 with a := v &&& s.sp, x := v &&& s.sp, sp := v &&& s.sp, p := t.p, pc := s.pc + 3 } ∧
      SetsZN (v &&& s.sp) s.p t.p) ∧
    ((Instr.ahx m).wf = true → OperandWritable m s → ∃ ea s1, resolve m s = .ok ea ∧
      busWrite ea (s.a &&& s.x &&& mask ea) s = .ok s1 ∧
      exec (.ahx m) s = .next { s1 with pc := s.pc + BitVec.ofNat 16 m.length }) ∧
    (OperandWritable (.absy w) s → ∃ ea s1, resolve (.absy w) s = .ok ea ∧
      busWrite ea (s.x &&& mask ea) s = .ok s1 ∧
      exec (.shx w) s = .next { s1 with pc := s.pc + 3 }) ∧
    (OperandWritable (.absx w) s → ∃ ea s1, resolve (.absx w) s = .ok ea ∧
      busWrite ea (s.y &&& mask ea) s = .ok s1 ∧
      exec (.shy w) s = .next { s1 with pc := s.pc + 3 }) ∧
    (OperandWritable (.absy w) s → ∃ ea s1, resolve (.absy w) s = .ok ea ∧
      busWrite ea (s.a &&& s.x &&& mask ea) s = .ok s1 ∧
      exec (.tas w) s = .next { s1 with sp := s.a &&& s.x, pc := s.pc + 3 })

/-- R343: a fatal ends the current step at once. R345: the data read comes before the data write.
Rests on the spec's own decisions D19 and D20 (log 7). -/
def Obligations.DataFatalsEndTheInstruction : Prop :=
  ∀ (m : Operand) (s : State),
    (∀ f, readOperand m s = .error f →
      exec (.lda m) s = .fault f ∧
      exec (.ldx m) s = .fault f ∧
      exec (.ldy m) s = .fault f ∧
      exec (.lax m) s = .fault f ∧
      exec (.adc m) s = .fault f ∧
      exec (.sbc m) s = .fault f ∧
      exec (.and m) s = .fault f ∧
      exec (.ora m) s = .fault f ∧
      exec (.eor m) s = .fault f ∧
      exec (.bit m) s = .fault f ∧
      exec (.cmp m) s = .fault f ∧
      exec (.cpx m) s = .fault f ∧
      exec (.cpy m) s = .fault f ∧
      (∀ opc, exec (.ign opc m) s = .fault f) ∧
      (∀ w, m = .absy w → exec (.las w) s = .fault f)) ∧
    (∀ ea f, resolve m s = .ok ea →
      (busWrite ea s.a s = .error f → exec (.sta m) s = .fault f) ∧
      (busWrite ea s.x s = .error f → exec (.stx m) s = .fault f) ∧
      (busWrite ea s.y s = .error f → exec (.sty m) s = .fault f) ∧
      (busWrite ea (s.a &&& s.x) s = .error f → exec (.sax m) s = .fault f) ∧
      (busRead ea s = .error f →
        exec (.inc m) s = .fault f ∧ exec (.dec m) s = .fault f ∧ exec (.dcp m) s = .fault f ∧
        exec (.isc m) s = .fault f ∧ exec (.asl m) s = .fault f ∧ exec (.lsr m) s = .fault f ∧
        exec (.rol m) s = .fault f ∧ exec (.ror m) s = .fault f) ∧
      (∀ old s1, busRead ea s = .ok (old, s1) →
        (busWrite ea (old + 1) s1 = .error f →
          exec (.inc m) s = .fault f ∧ exec (.isc m) s = .fault f) ∧
        (busWrite ea (old - 1) s1 = .error f →
          exec (.dec m) s = .fault f ∧ exec (.dcp m) s = .fault f) ∧
        (busWrite ea (old + old) s1 = .error f → exec (.asl m) s = .fault f) ∧
        (busWrite ea (old >>> 1) s1 = .error f → exec (.lsr m) s = .fault f) ∧
        (busWrite ea (old + old + (if flag s.p .c then 1 else 0)) s1 = .error f →
          exec (.rol m) s = .fault f) ∧
        (busWrite ea (old >>> 1 + (if flag s.p .c then 0x80 else 0)) s1 = .error f →
          exec (.ror m) s = .fault f))) ∧
    (∀ w f,
      let mask : Addr → Byte := fun ea => ea.extractLsb' 8 8 + 1
      (∀ ea, resolve m s = .ok ea → busWrite ea (s.a &&& s.x &&& mask ea) s = .error f →
        exec (.ahx m) s = .fault f) ∧
      (∀ ea, resolve (.absy w) s = .ok ea →
        (busWrite ea (s.x &&& mask ea) s = .error f → exec (.shx w) s = .fault f) ∧
        (busWrite ea (s.a &&& s.x &&& mask ea) s = .error f → exec (.tas w) s = .fault f)) ∧
      (∀ ea, resolve (.absx w) s = .ok ea → busWrite ea (s.y &&& mask ea) s = .error f →
        exec (.shy w) s = .fault f) ∧
      (busRead w s = .error f → exec (.jmpInd w) s = .fault f) ∧
      (∀ l s1, busRead w s = .ok (l, s1) →
        busRead (if w &&& 0x00FF = 0x00FF then w &&& 0xFF00 else w + 1) s1 = .error f →
        exec (.jmpInd w) s = .fault f))

/-- The lists of R21 to R24. -/
def Obligations.RegistersChangeOnlyWhereListed : Prop :=
  ∀ (i : Instr) (s t : State), exec i s = .next t → ∀ r, r ∉ writesReg i → t.reg r = s.reg r

/-- The flag table after R35. -/
def Obligations.FlagsChangeOnlyWhereListed : Prop :=
  ∀ (i : Instr) (s t : State), exec i s = .next t → ∀ f, f ∉ writesFlag i → flag t.p f = flag s.p f

/-- R166 (stores), R240 and R242 (pushes). R347: nothing else saves anything to the stack. -/
def Obligations.MemoryChangesOnlyWhereStored : Prop :=
  ∀ (i : Instr) (s t : State), exec i s = .next t →
    ∀ a, (∀ b ∈ storesTo i s, ¬ SameByte a b) → peek a t = peek a s

/-- R10: the PPU register file changes only inside a CPU bus access. R77 and R102. The callback in
State is the model's own form of HOST (log 4, DESIGN CHOICE). Rests on the spec's own decision D12
(oam inert) (log 7). -/
def Obligations.PpuChangesOnlyThroughItsWindow : Prop :=
  ∀ (i : Instr) (s t : State), exec i s = .next t →
    t.cart = s.cart ∧ t.ppu.oam = s.ppu.oam ∧ t.host = s.host ∧
    ((∀ a ∈ readsFrom i s ++ storesTo i s, ¬ InPpu a) → t.ppu = s.ppu) ∧
    ((∀ a ∈ readsFrom i s ++ storesTo i s, ¬ IsDataPort a) →
      t.ppu.vram = s.ppu.vram ∧ t.ppu.palette = s.ppu.palette ∧ t.ppu.readBuffer = s.ppu.readBuffer)

/-- R152: for every other instruction the final PC is opaddr + d.length. Rests on the spec's own
decision D4 (log 7). -/
def Obligations.PcAdvancesUnlessAssigned : Prop :=
  ∀ (i : Instr) (s t : State), exec i s = .next t → assignsPc i s.p = false →
    t.pc = s.pc + BitVec.ofNat 16 i.length

/-- R9: HOST is a function (or relation) from machine state to machine state. R346: it may change
any state. The canonical form of the arrays (log 1), the callback as a list of effects (logs 4 and
19) and its field are the model's own. Rests on the spec's own decision D23 (log 7). -/
def Obligations.EveryHostFunctionIsACallback : Prop :=
  ∀ F : State → State,
    (∀ s, ramWf s = true → ramWf (F s) = true ∧ (F s).cart = s.cart ∧ (F s).host = s.host) →
    ∃ H : State → List HostAct, ∀ (s : State) (later : Callback), ramWf s = true →
      (∀ f, (F s).run = .fatal f → runHostActs (H s) { s with host := later } = .error f) ∧
      ((∀ f, (F s).run ≠ .fatal f) →
        runHostActs (H s) { s with host := later } = .ok { F s with host := later })

end
end

