-- ==== Sys2Proof/Laws/Memory.lean ====
section
/-! SUPPORT. Byte arrays: read after write, the canonical form that every write keeps, and that canonical arrays with the
same bytes are equal data. -/

namespace Sys2Proof.Machine

@[simp] theorem Memory.read_nil (k : Nat) : Memory.read [] k = 0x00#8 := rfl

/-- A write leaves every other index alone. -/
theorem Memory.read_write_other (m : Memory) {j k : Nat} (v : Byte) (h : j ≠ k) :
    (m.write k v).read j = m.read j := by
  induction m with
  | nil =>
    simp only [Memory.write]
    split
    · rfl
    · simp only [Memory.read, if_neg h]
  | cons c rest ih =>
    obtain ⟨i, w⟩ := c
    simp only [Memory.write]
    split
    · split <;> simp [Memory.read, h]
    · split
      · rename_i hki
        subst hki
        split <;> simp [Memory.read, h]
      · simp [Memory.read, ih]

theorem Memory.wf_cons {c : Host.Cell} {m : Memory} (h : Memory.wf (c :: m) = true) :
    c.2 ≠ unlisted ∧ m.wf = true ∧ ∀ d ∈ m, c.1 < d.1 := by
  induction m generalizing c with
  | nil => obtain ⟨i, w⟩ := c; simpa [Memory.wf] using h
  | cons d rest ih =>
    obtain ⟨i, w⟩ := c
    obtain ⟨j, x⟩ := d
    simp only [Memory.wf, Bool.and_eq_true, decide_eq_true_eq, bne_iff_ne, ne_eq] at h
    refine ⟨h.1.1, h.2, fun e he => ?_⟩
    rcases List.mem_cons.mp he with rfl | he
    · exact h.1.2
    · exact lt_trans h.1.2 ((ih h.2).2.2 e he)

theorem Memory.wf_of_cons {c : Host.Cell} {m : Memory} (hc : c.2 ≠ unlisted) (hm : m.wf = true)
    (hlt : ∀ d ∈ m, c.1 < d.1) : Memory.wf (c :: m) = true := by
  obtain ⟨i, w⟩ := c
  cases m with
  | nil => simpa [Memory.wf] using hc
  | cons d rest =>
    obtain ⟨j, x⟩ := d
    have := hlt (j, x) (by simp)
    simp_all [Memory.wf]

/-- An index below every listed one is unlisted. -/
theorem Memory.read_below {m : Memory} {k : Nat} (h : ∀ d ∈ m, k < d.1) : m.read k = unlisted := by
  induction m with
  | nil => rfl
  | cons c rest ih =>
    obtain ⟨i, w⟩ := c
    have hk : k < i := h (i, w) (by simp)
    simp only [Memory.read, if_neg (Nat.ne_of_lt hk)]
    exact ih fun d hd => h d (by simp [hd])

/-- A written byte reads back. -/
theorem Memory.read_write_same {m : Memory} (h : m.wf = true) (k : Nat) (v : Byte) :
    (m.write k v).read k = v := by
  induction m with
  | nil =>
    by_cases hv : v = unlisted
    · simp only [Memory.write, if_pos hv]
      exact hv.symm
    · simp [Memory.write, Memory.read, hv]
  | cons c rest ih =>
    obtain ⟨i, w⟩ := c
    obtain ⟨-, hrest, hlt⟩ := Memory.wf_cons h
    simp only [Memory.write]
    split
    · rename_i hki
      split
      · rename_i hv
        rw [hv]
        refine Memory.read_below fun d hd => ?_
        rcases List.mem_cons.mp hd with rfl | hd
        · exact hki
        · exact lt_trans hki (hlt d hd)
      · simp [Memory.read]
    · split
      · rename_i hki
        subst hki
        split
        · rename_i hv
          rw [hv]
          exact Memory.read_below hlt
        · simp [Memory.read]
      · rename_i hki
        simp [Memory.read, hki, ih hrest]

/-- Every index a write can list is the written one or was listed. -/
theorem Memory.mem_write {m : Memory} {k : Nat} {v : Byte} {d : Host.Cell} (h : d ∈ m.write k v) :
    d ∈ m ∨ (d.1 = k ∧ v ≠ unlisted) := by
  induction m with
  | nil => by_cases hv : v = unlisted <;> simp_all [Memory.write]
  | cons c rest ih =>
    obtain ⟨i, w⟩ := c
    simp only [Memory.write] at h
    split at h
    · split at h
      · exact .inl h
      · rcases List.mem_cons.mp h with rfl | h
        · exact .inr ⟨rfl, by assumption⟩
        · exact .inl h
    · split at h
      · split at h
        · exact .inl (by simp [h])
        · rcases List.mem_cons.mp h with rfl | h
          · exact .inr ⟨rfl, by assumption⟩
          · exact .inl (by simp [h])
      · rcases List.mem_cons.mp h with rfl | h
        · exact .inl (by simp)
        · rcases ih h with h | h
          · exact .inl (by simp [h])
          · exact .inr h

/-- A write keeps the canonical form. -/
theorem Memory.wf_write {m : Memory} (h : m.wf = true) (k : Nat) (v : Byte) :
    (m.write k v).wf = true := by
  induction m with
  | nil => by_cases hv : v = unlisted <;> simp [Memory.write, Memory.wf, hv]
  | cons c rest ih =>
    obtain ⟨i, w⟩ := c
    obtain ⟨hc, hrest, hlt⟩ := Memory.wf_cons h
    simp only [Memory.write]
    split
    · rename_i hki
      split
      · exact h
      · refine Memory.wf_of_cons (by assumption) h fun d hd => ?_
        rcases List.mem_cons.mp hd with rfl | hd
        · exact hki
        · exact lt_trans hki (hlt d hd)
    · split
      · rename_i hki
        subst hki
        split
        · exact hrest
        · exact Memory.wf_of_cons (by assumption) hrest hlt
      · refine Memory.wf_of_cons hc (ih hrest) fun d hd => ?_
        rcases Memory.mem_write hd with hd | ⟨hd, -⟩
        · exact hlt d hd
        · simp only at hd ⊢
          omega

/-- A write inside the bound keeps the bound. -/
theorem Memory.below_write {m : Memory} {n k : Nat} (h : m.below n = true) (hk : k < n) (v : Byte) :
    (m.write k v).below n = true := by
  simp only [Memory.below, List.all_eq_true, decide_eq_true_eq] at h ⊢
  intro d hd
  rcases Memory.mem_write hd with hd | ⟨hd, -⟩
  · exact h d hd
  · omega

/-- Canonical arrays with the same bytes are the same list. -/
theorem Memory.ext_of_wf {m n : Memory} (hm : m.wf = true) (hn : n.wf = true)
    (h : ∀ k, m.read k = n.read k) : m = n := by
  induction m generalizing n with
  | nil =>
    cases n with
    | nil => rfl
    | cons d rest =>
      obtain ⟨hd, -, -⟩ := Memory.wf_cons hn
      have := h d.1
      simp only [Memory.read, if_pos] at this
      exact absurd this.symm hd
  | cons c rest ih =>
    obtain ⟨hc, hrest, hlt⟩ := Memory.wf_cons hm
    cases n with
    | nil =>
      have := h c.1
      simp only [Memory.read, if_pos] at this
      exact absurd this hc
    | cons d rest' =>
      obtain ⟨hd, hrest', hlt'⟩ := Memory.wf_cons hn
      have hcd : c.1 = d.1 := by
        rcases Nat.lt_trichotomy c.1 d.1 with hl | he | hl
        · have := h c.1
          rw [Memory.read_below (m := d :: rest') fun e he => by
            rcases List.mem_cons.mp he with rfl | he
            · exact hl
            · exact lt_trans hl (hlt' e he)] at this
          simp only [Memory.read, if_pos] at this
          exact absurd this hc
        · exact he
        · have := h d.1
          rw [Memory.read_below (m := c :: rest) fun e he => by
            rcases List.mem_cons.mp he with rfl | he
            · exact hl
            · exact lt_trans hl (hlt e he)] at this
          simp only [Memory.read, if_pos] at this
          exact absurd this.symm hd
      have hv : c.2 = d.2 := by
        have := h c.1
        simpa [Memory.read, hcd] using this
      have htail : rest = rest' := by
        refine ih hrest hrest' fun k => ?_
        by_cases hk : k = c.1
        · subst hk
          rw [Memory.read_below hlt, Memory.read_below (hcd ▸ hlt')]
        · have := h k
          simpa [Memory.read, hk, show k ≠ d.1 from hcd ▸ hk] using this
      rw [show c = d from Prod.ext hcd hv, htail]

/-- A masked CPU address is an index of `cpu_ram`. -/
theorem ramIndex_lt (addr : Addr) : ramIndex addr < 2048 := by
  have : addr.toNat &&& 2047 ≤ 2047 := Nat.and_le_right
  simp only [ramIndex, BitVec.toNat_and]
  exact Nat.lt_succ_of_le this

/-- A folded palette address is an index of `palette`, and not one of the four aliased cells (R42, R96). -/
theorem palIndex_lt (addr : Addr) :
    palIndex addr < 32 ∧ palIndex addr ≠ 0x10 ∧ palIndex addr ≠ 0x14 ∧ palIndex addr ≠ 0x18 ∧
      palIndex addr ≠ 0x1C := by
  have : addr.toNat &&& 31 ≤ 31 := Nat.and_le_right
  have : (addr &&& 0x1F).toNat ≤ 31 := by simpa [BitVec.toNat_and] using this
  simp only [palIndex]
  split <;> omega

/-- The index `vramIndex` answers lies in `vram`. -/
theorem vramIndex_lt {mir : Mirroring} {a : Addr} {k : Nat} (h : vramIndex mir a = .ok k) :
    k < 2048 := by
  simp only [vramIndex, raiseFatal] at h
  split at h
  · split at h
    · cases h; assumption
    · cases h
  · cases h

end Sys2Proof.Machine
end

