-- ==== Sys2Proof/Laws/Bus.lean ====
section
/-! SUPPORT. Everything an access of the data port or of the bus can do when it completes. Later proofs cite these and do not
unfold the accesses. -/

namespace Sys2Proof.Machine

/-- The three ranges in which a data-port read completes, with its value and its effect (R84). -/
theorem dataRead_cases {c : Cartridge} {u u' : Ppu} {v : Byte} (h : dataRead c u = .ok (v, u')) :
    (u.addr ≤ 0x1FFF ∧ u.addr.toNat < 8192 * c.chrBanks ∧ v = u.readBuffer ∧
      u' = { u.bump with readBuffer := c.chr.read u.addr.toNat }) ∨
    (0x2000 ≤ u.addr ∧ u.addr ≤ 0x2FFF ∧ v = u.readBuffer ∧
      ∃ k, vramIndex c.mirroring u.addr = .ok k ∧
        u' = { u.bump with readBuffer := u.vram.read k }) ∨
    (0x3F00 ≤ u.addr ∧ u.addr ≤ 0x3FFF ∧ v = u.palette.read (palIndex u.addr) ∧ u' = u.bump) := by
  simp only [dataRead, raiseFatal, bind, Except.bind] at h
  split at h
  · rename_i ha
    simp only [chrRead, raiseFatal] at h
    split at h
    · cases h
    · rename_i hc
      split at hc
      · cases hc
        cases h
        exact .inl ⟨ha, by assumption, rfl, rfl⟩
      · cases hc
  · split at h
    · rename_i ha hb
      split at h
      · cases h
      · rename_i k hk
        cases h
        exact .inr (.inl ⟨by bv_omega, hb, rfl, k, hk, rfl⟩)
    · split at h
      · cases h
      · split at h
        · rename_i ha hb
          cases h
          exact .inr (.inr ⟨by bv_omega, hb, rfl, rfl⟩)
        · cases h

/-- The two ranges in which a data-port write completes, with its effect (R85). -/
theorem dataWrite_cases {c : Cartridge} {u u' : Ppu} {v : Byte} (h : dataWrite c v u = .ok u') :
    (0x2000 ≤ u.addr ∧ u.addr ≤ 0x2FFF ∧
      ∃ k, vramIndex c.mirroring u.addr = .ok k ∧ u' = { u.bump with vram := u.vram.write k v }) ∨
    (0x3F00 ≤ u.addr ∧ u.addr ≤ 0x3FFF ∧
      u' = { u.bump with palette := u.palette.write (palIndex u.addr) v }) := by
  simp only [dataWrite, raiseFatal, bind, Except.bind] at h
  split at h
  · cases h
  · split at h
    · rename_i ha hb
      split at h
      · cases h
      · rename_i k hk
        cases h
        exact .inl ⟨by bv_omega, hb, k, hk, rfl⟩
    · split at h
      · cases h
      · split at h
        · rename_i ha hb
          cases h
          exact .inr ⟨by bv_omega, hb, rfl⟩
        · cases h

/-- Where a bus read completes, its value and its effect (R62). -/
theorem busRead_cases {addr : Addr} {s t : State} {v : Byte} (h : busRead addr s = .ok (v, t)) :
    (addr ≤ 0x1FFF ∧ v = ramRead addr s ∧ t = s) ∨
    (InPpu addr ∧ ppuReg addr = .status ∧ v = 0x00 ∧ t = s) ∨
    (IsDataPort addr ∧ ∃ u, dataRead s.cart s.ppu = .ok (v, u) ∧ t = { s with ppu := u }) ∨
    (0x8000 ≤ addr ∧ v = prgRead s.cart addr ∧ t = s) := by
  simp only [busRead, raiseFatal] at h
  split at h
  · cases h
    exact .inl ⟨by assumption, rfl, rfl⟩
  · split at h
    · rename_i ha hb
      have hp : InPpu addr := ⟨by bv_omega, hb⟩
      simp only [ppuRegRead, raiseFatal] at h
      split at h
      · rename_i hr
        cases h
        exact .inr (.inl ⟨hp, hr, rfl, rfl⟩)
      · rename_i hr
        cases hd : dataRead s.cart s.ppu with
        | error f => simp [hd, bind, Except.bind] at h
        | ok q =>
          simp only [hd, bind, Except.bind] at h
          cases h
          exact .inr (.inr (.inl ⟨⟨hp, hr⟩, q.2, rfl, rfl⟩))
      all_goals cases h
    · split at h
      · cases h
        exact .inr (.inr (.inr ⟨by assumption, rfl, rfl⟩))
      · cases h

/-- A completed bus read changes at most `ppu_addr` and the read buffer. -/
theorem busRead_effect {addr : Addr} {s t : State} {v : Byte} (h : busRead addr s = .ok (v, t)) :
    t = { s with ppu := { s.ppu with addr := t.ppu.addr, readBuffer := t.ppu.readBuffer } } := by
  rcases busRead_cases h with ⟨-, -, rfl⟩ | ⟨-, -, -, rfl⟩ | ⟨-, u, hu, rfl⟩ | ⟨-, -, rfl⟩
  · rfl
  · rfl
  · rcases dataRead_cases hu with ⟨-, -, -, rfl⟩ | ⟨-, -, -, k, -, rfl⟩ | ⟨-, -, -, rfl⟩ <;> rfl
  · rfl

/-- Only a data-port read has a side effect (R102). -/
theorem busRead_pure {addr : Addr} {s t : State} {v : Byte} (h : busRead addr s = .ok (v, t))
    (hp : ¬ IsDataPort addr) : t = s := by
  rcases busRead_cases h with ⟨-, -, rfl⟩ | ⟨-, -, -, rfl⟩ | ⟨hd, -⟩ | ⟨-, -, rfl⟩
  · rfl
  · rfl
  · exact absurd hd hp
  · rfl

/-- Where a bus write completes and its effect (R63). -/
theorem busWrite_cases {addr : Addr} {s t : State} {v : Byte} (h : busWrite addr v s = .ok t) :
    (addr ≤ 0x1FFF ∧ t = ramWrite addr v s) ∨
    (InPpu addr ∧ ppuReg addr = .ctrl ∧ t = { s with ppu := { s.ppu with ctrl := v } }) ∨
    (InPpu addr ∧ ppuReg addr = .mask ∧ t = { s with ppu := { s.ppu with mask := v } }) ∨
    (InPpu addr ∧ ppuReg addr = .scroll ∧ t = { s with ppu := s.ppu.writeScroll v }) ∨
    (InPpu addr ∧ ppuReg addr = .addr ∧ t = { s with ppu := s.ppu.writeAddr v }) ∨
    (IsDataPort addr ∧ ∃ u, dataWrite s.cart v s.ppu = .ok u ∧ t = { s with ppu := u }) := by
  simp only [busWrite, raiseFatal] at h
  split at h
  · cases h
    exact .inl ⟨by assumption, rfl⟩
  · split at h
    · rename_i ha hb
      have hp : InPpu addr := ⟨by bv_omega, hb⟩
      simp only [ppuRegWrite, raiseFatal] at h
      split at h
      · rename_i hr
        cases h
        exact .inr (.inl ⟨hp, hr, rfl⟩)
      · rename_i hr
        cases h
        exact .inr (.inr (.inl ⟨hp, hr, rfl⟩))
      · rename_i hr
        cases h
        exact .inr (.inr (.inr (.inl ⟨hp, hr, rfl⟩)))
      · rename_i hr
        cases h
        exact .inr (.inr (.inr (.inr (.inl ⟨hp, hr, rfl⟩))))
      · rename_i hr
        cases hd : dataWrite s.cart v s.ppu with
        | error f => simp [hd, bind, Except.bind] at h
        | ok u =>
          simp only [hd, bind, Except.bind] at h
          cases h
          exact .inr (.inr (.inr (.inr (.inr ⟨⟨hp, hr⟩, u, rfl, rfl⟩))))
      all_goals cases h
    · cases h

/-- A completed bus write changes at most `cpu_ram` and the PPU register file, and never `oam` or the
read buffer (R43, R93). -/
theorem busWrite_effect {addr : Addr} {s t : State} {v : Byte} (h : busWrite addr v s = .ok t) :
    t = { s with cpuRam := t.cpuRam, ppu := t.ppu } ∧ t.ppu.oam = s.ppu.oam ∧
      t.ppu.readBuffer = s.ppu.readBuffer := by
  rcases busWrite_cases h with ⟨-, rfl⟩ | ⟨-, -, rfl⟩ | ⟨-, -, rfl⟩ | ⟨-, -, rfl⟩ | ⟨-, -, rfl⟩ |
    ⟨-, u, hu, rfl⟩
  · exact ⟨rfl, rfl, rfl⟩
  · exact ⟨rfl, rfl, rfl⟩
  · exact ⟨rfl, rfl, rfl⟩
  · refine ⟨rfl, ?_, ?_⟩ <;> simp only [Ppu.writeScroll] <;> split <;> rfl
  · refine ⟨rfl, ?_, ?_⟩ <;> simp only [Ppu.writeAddr] <;> split <;> rfl
  · rcases dataWrite_cases hu with ⟨-, -, k, -, rfl⟩ | ⟨-, -, rfl⟩ <;> exact ⟨rfl, rfl, rfl⟩

end Sys2Proof.Machine
end

