-- ==== Sys2Proof/Laws/State.lean ====
section
/-! SUPPORT. One lemma per field per update: what each named operation leaves in each field of State. All true by rfl. -/

namespace Sys2Proof.Machine

/-! ### advance -/

@[simp] theorem advance_a (n : Nat) (s : State) : (advance n s).a = s.a := rfl
@[simp] theorem advance_x (n : Nat) (s : State) : (advance n s).x = s.x := rfl
@[simp] theorem advance_y (n : Nat) (s : State) : (advance n s).y = s.y := rfl
@[simp] theorem advance_sp (n : Nat) (s : State) : (advance n s).sp = s.sp := rfl
@[simp] theorem advance_p (n : Nat) (s : State) : (advance n s).p = s.p := rfl
@[simp] theorem advance_pc (n : Nat) (s : State) :
    (advance n s).pc = s.pc + BitVec.ofNat 16 n := rfl
@[simp] theorem advance_cpuRam (n : Nat) (s : State) : (advance n s).cpuRam = s.cpuRam := rfl
@[simp] theorem advance_ppu (n : Nat) (s : State) : (advance n s).ppu = s.ppu := rfl
@[simp] theorem advance_run (n : Nat) (s : State) : (advance n s).run = s.run := rfl
@[simp] theorem advance_cart (n : Nat) (s : State) : (advance n s).cart = s.cart := rfl
@[simp] theorem advance_host (n : Nat) (s : State) : (advance n s).host = s.host := rfl

/-! ### haltRun -/

@[simp] theorem haltRun_a (s : State) : (haltRun s).a = s.a := rfl
@[simp] theorem haltRun_x (s : State) : (haltRun s).x = s.x := rfl
@[simp] theorem haltRun_y (s : State) : (haltRun s).y = s.y := rfl
@[simp] theorem haltRun_sp (s : State) : (haltRun s).sp = s.sp := rfl
@[simp] theorem haltRun_p (s : State) : (haltRun s).p = s.p := rfl
@[simp] theorem haltRun_pc (s : State) : (haltRun s).pc = s.pc := rfl
@[simp] theorem haltRun_cpuRam (s : State) : (haltRun s).cpuRam = s.cpuRam := rfl
@[simp] theorem haltRun_ppu (s : State) : (haltRun s).ppu = s.ppu := rfl
@[simp] theorem haltRun_run (s : State) : (haltRun s).run = .halted := rfl
@[simp] theorem haltRun_cart (s : State) : (haltRun s).cart = s.cart := rfl
@[simp] theorem haltRun_host (s : State) : (haltRun s).host = s.host := rfl

/-! ### ramWrite -/

@[simp] theorem ramWrite_a (w : Addr) (v : Byte) (s : State) : (ramWrite w v s).a = s.a := rfl
@[simp] theorem ramWrite_x (w : Addr) (v : Byte) (s : State) : (ramWrite w v s).x = s.x := rfl
@[simp] theorem ramWrite_y (w : Addr) (v : Byte) (s : State) : (ramWrite w v s).y = s.y := rfl
@[simp] theorem ramWrite_sp (w : Addr) (v : Byte) (s : State) : (ramWrite w v s).sp = s.sp := rfl
@[simp] theorem ramWrite_p (w : Addr) (v : Byte) (s : State) : (ramWrite w v s).p = s.p := rfl
@[simp] theorem ramWrite_pc (w : Addr) (v : Byte) (s : State) : (ramWrite w v s).pc = s.pc := rfl
@[simp] theorem ramWrite_cpuRam (w : Addr) (v : Byte) (s : State) :
    (ramWrite w v s).cpuRam = s.cpuRam.write (ramIndex w) v := rfl
@[simp] theorem ramWrite_ppu (w : Addr) (v : Byte) (s : State) : (ramWrite w v s).ppu = s.ppu := rfl
@[simp] theorem ramWrite_run (w : Addr) (v : Byte) (s : State) : (ramWrite w v s).run = s.run := rfl
@[simp] theorem ramWrite_cart (w : Addr) (v : Byte) (s : State) :
    (ramWrite w v s).cart = s.cart := rfl
@[simp] theorem ramWrite_host (w : Addr) (v : Byte) (s : State) :
    (ramWrite w v s).host = s.host := rfl

/-! ### push -/

@[simp] theorem push_a (v : Byte) (s : State) : (push v s).a = s.a := rfl
@[simp] theorem push_x (v : Byte) (s : State) : (push v s).x = s.x := rfl
@[simp] theorem push_y (v : Byte) (s : State) : (push v s).y = s.y := rfl
@[simp] theorem push_sp (v : Byte) (s : State) : (push v s).sp = s.sp - 1 := rfl
@[simp] theorem push_p (v : Byte) (s : State) : (push v s).p = s.p := rfl
@[simp] theorem push_pc (v : Byte) (s : State) : (push v s).pc = s.pc := rfl
@[simp] theorem push_cpuRam (v : Byte) (s : State) :
    (push v s).cpuRam = s.cpuRam.write (ramIndex (stackAddr s.sp)) v := rfl
@[simp] theorem push_ppu (v : Byte) (s : State) : (push v s).ppu = s.ppu := rfl
@[simp] theorem push_run (v : Byte) (s : State) : (push v s).run = s.run := rfl
@[simp] theorem push_cart (v : Byte) (s : State) : (push v s).cart = s.cart := rfl
@[simp] theorem push_host (v : Byte) (s : State) : (push v s).host = s.host := rfl

/-! ### pop_snd -/

@[simp] theorem pop_snd_a (s : State) : (pop s).2.a = s.a := rfl
@[simp] theorem pop_snd_x (s : State) : (pop s).2.x = s.x := rfl
@[simp] theorem pop_snd_y (s : State) : (pop s).2.y = s.y := rfl
@[simp] theorem pop_snd_sp (s : State) : (pop s).2.sp = s.sp + 1 := rfl
@[simp] theorem pop_snd_p (s : State) : (pop s).2.p = s.p := rfl
@[simp] theorem pop_snd_pc (s : State) : (pop s).2.pc = s.pc := rfl
@[simp] theorem pop_snd_cpuRam (s : State) : (pop s).2.cpuRam = s.cpuRam := rfl
@[simp] theorem pop_snd_ppu (s : State) : (pop s).2.ppu = s.ppu := rfl
@[simp] theorem pop_snd_run (s : State) : (pop s).2.run = s.run := rfl
@[simp] theorem pop_snd_cart (s : State) : (pop s).2.cart = s.cart := rfl
@[simp] theorem pop_snd_host (s : State) : (pop s).2.host = s.host := rfl

/-! ### pushWord -/

@[simp] theorem pushWord_a (w : Addr) (s : State) : (pushWord w s).a = s.a := rfl
@[simp] theorem pushWord_x (w : Addr) (s : State) : (pushWord w s).x = s.x := rfl
@[simp] theorem pushWord_y (w : Addr) (s : State) : (pushWord w s).y = s.y := rfl
@[simp] theorem pushWord_sp (w : Addr) (s : State) : (pushWord w s).sp = s.sp - 1 - 1 := rfl
@[simp] theorem pushWord_p (w : Addr) (s : State) : (pushWord w s).p = s.p := rfl
@[simp] theorem pushWord_pc (w : Addr) (s : State) : (pushWord w s).pc = s.pc := rfl
@[simp] theorem pushWord_cpuRam (w : Addr) (s : State) :
    (pushWord w s).cpuRam = (s.cpuRam.write (ramIndex (stackAddr s.sp)) (hiByte w)).write
      (ramIndex (stackAddr (s.sp - 1))) (loByte w) := rfl
@[simp] theorem pushWord_ppu (w : Addr) (s : State) : (pushWord w s).ppu = s.ppu := rfl
@[simp] theorem pushWord_run (w : Addr) (s : State) : (pushWord w s).run = s.run := rfl
@[simp] theorem pushWord_cart (w : Addr) (s : State) : (pushWord w s).cart = s.cart := rfl
@[simp] theorem pushWord_host (w : Addr) (s : State) : (pushWord w s).host = s.host := rfl

/-! ### popWord_snd -/

@[simp] theorem popWord_snd_a (s : State) : (popWord s).2.a = s.a := rfl
@[simp] theorem popWord_snd_x (s : State) : (popWord s).2.x = s.x := rfl
@[simp] theorem popWord_snd_y (s : State) : (popWord s).2.y = s.y := rfl
@[simp] theorem popWord_snd_sp (s : State) : (popWord s).2.sp = s.sp + 1 + 1 := rfl
@[simp] theorem popWord_snd_p (s : State) : (popWord s).2.p = s.p := rfl
@[simp] theorem popWord_snd_pc (s : State) : (popWord s).2.pc = s.pc := rfl
@[simp] theorem popWord_snd_cpuRam (s : State) : (popWord s).2.cpuRam = s.cpuRam := rfl
@[simp] theorem popWord_snd_ppu (s : State) : (popWord s).2.ppu = s.ppu := rfl
@[simp] theorem popWord_snd_run (s : State) : (popWord s).2.run = s.run := rfl
@[simp] theorem popWord_snd_cart (s : State) : (popWord s).2.cart = s.cart := rfl
@[simp] theorem popWord_snd_host (s : State) : (popWord s).2.host = s.host := rfl

/-! ### setFlag -/

@[simp] theorem setFlag_a (f : Flag) (b : Bool) (s : State) : (setFlag f b s).a = s.a := rfl
@[simp] theorem setFlag_x (f : Flag) (b : Bool) (s : State) : (setFlag f b s).x = s.x := rfl
@[simp] theorem setFlag_y (f : Flag) (b : Bool) (s : State) : (setFlag f b s).y = s.y := rfl
@[simp] theorem setFlag_sp (f : Flag) (b : Bool) (s : State) : (setFlag f b s).sp = s.sp := rfl
@[simp] theorem setFlag_p (f : Flag) (b : Bool) (s : State) :
    (setFlag f b s).p = putFlag s.p f b := rfl
@[simp] theorem setFlag_pc (f : Flag) (b : Bool) (s : State) : (setFlag f b s).pc = s.pc := rfl
@[simp] theorem setFlag_cpuRam (f : Flag) (b : Bool) (s : State) :
    (setFlag f b s).cpuRam = s.cpuRam := rfl
@[simp] theorem setFlag_ppu (f : Flag) (b : Bool) (s : State) : (setFlag f b s).ppu = s.ppu := rfl
@[simp] theorem setFlag_run (f : Flag) (b : Bool) (s : State) : (setFlag f b s).run = s.run := rfl
@[simp] theorem setFlag_cart (f : Flag) (b : Bool) (s : State) :
    (setFlag f b s).cart = s.cart := rfl
@[simp] theorem setFlag_host (f : Flag) (b : Bool) (s : State) :
    (setFlag f b s).host = s.host := rfl

/-! ### setZN -/

@[simp] theorem setZN_a (v : Byte) (s : State) : (setZN v s).a = s.a := rfl
@[simp] theorem setZN_x (v : Byte) (s : State) : (setZN v s).x = s.x := rfl
@[simp] theorem setZN_y (v : Byte) (s : State) : (setZN v s).y = s.y := rfl
@[simp] theorem setZN_sp (v : Byte) (s : State) : (setZN v s).sp = s.sp := rfl
@[simp] theorem setZN_p (v : Byte) (s : State) :
    (setZN v s).p = putFlag (putFlag s.p .z (v == 0)) .n (v.getLsbD 7) := rfl
@[simp] theorem setZN_pc (v : Byte) (s : State) : (setZN v s).pc = s.pc := rfl
@[simp] theorem setZN_cpuRam (v : Byte) (s : State) : (setZN v s).cpuRam = s.cpuRam := rfl
@[simp] theorem setZN_ppu (v : Byte) (s : State) : (setZN v s).ppu = s.ppu := rfl
@[simp] theorem setZN_run (v : Byte) (s : State) : (setZN v s).run = s.run := rfl
@[simp] theorem setZN_cart (v : Byte) (s : State) : (setZN v s).cart = s.cart := rfl
@[simp] theorem setZN_host (v : Byte) (s : State) : (setZN v s).host = s.host := rfl

/-! ### addToA -/

@[simp] theorem addToA_x (v : Byte) (s : State) : (addToA v s).x = s.x := rfl
@[simp] theorem addToA_y (v : Byte) (s : State) : (addToA v s).y = s.y := rfl
@[simp] theorem addToA_sp (v : Byte) (s : State) : (addToA v s).sp = s.sp := rfl
@[simp] theorem addToA_pc (v : Byte) (s : State) : (addToA v s).pc = s.pc := rfl
@[simp] theorem addToA_cpuRam (v : Byte) (s : State) : (addToA v s).cpuRam = s.cpuRam := rfl
@[simp] theorem addToA_ppu (v : Byte) (s : State) : (addToA v s).ppu = s.ppu := rfl
@[simp] theorem addToA_run (v : Byte) (s : State) : (addToA v s).run = s.run := rfl
@[simp] theorem addToA_cart (v : Byte) (s : State) : (addToA v s).cart = s.cart := rfl
@[simp] theorem addToA_host (v : Byte) (s : State) : (addToA v s).host = s.host := rfl

/-! ### compare -/

@[simp] theorem compare_a (r m : Byte) (s : State) : (compare r m s).a = s.a := rfl
@[simp] theorem compare_x (r m : Byte) (s : State) : (compare r m s).x = s.x := rfl
@[simp] theorem compare_y (r m : Byte) (s : State) : (compare r m s).y = s.y := rfl
@[simp] theorem compare_sp (r m : Byte) (s : State) : (compare r m s).sp = s.sp := rfl
@[simp] theorem compare_pc (r m : Byte) (s : State) : (compare r m s).pc = s.pc := rfl
@[simp] theorem compare_cpuRam (r m : Byte) (s : State) : (compare r m s).cpuRam = s.cpuRam := rfl
@[simp] theorem compare_ppu (r m : Byte) (s : State) : (compare r m s).ppu = s.ppu := rfl
@[simp] theorem compare_run (r m : Byte) (s : State) : (compare r m s).run = s.run := rfl
@[simp] theorem compare_cart (r m : Byte) (s : State) : (compare r m s).cart = s.cart := rfl
@[simp] theorem compare_host (r m : Byte) (s : State) : (compare r m s).host = s.host := rfl

/-! ### popStatus -/

@[simp] theorem popStatus_a (s : State) : (popStatus s).a = s.a := rfl
@[simp] theorem popStatus_x (s : State) : (popStatus s).x = s.x := rfl
@[simp] theorem popStatus_y (s : State) : (popStatus s).y = s.y := rfl
@[simp] theorem popStatus_sp (s : State) : (popStatus s).sp = s.sp + 1 := rfl
@[simp] theorem popStatus_p (s : State) : (popStatus s).p = statusPopped (pop s).1 := rfl
@[simp] theorem popStatus_pc (s : State) : (popStatus s).pc = s.pc := rfl
@[simp] theorem popStatus_cpuRam (s : State) : (popStatus s).cpuRam = s.cpuRam := rfl
@[simp] theorem popStatus_ppu (s : State) : (popStatus s).ppu = s.ppu := rfl
@[simp] theorem popStatus_run (s : State) : (popStatus s).run = s.run := rfl
@[simp] theorem popStatus_cart (s : State) : (popStatus s).cart = s.cart := rfl
@[simp] theorem popStatus_host (s : State) : (popStatus s).host = s.host := rfl

/-! ### cpuReset -/

@[simp] theorem cpuReset_a (s : State) : (cpuReset s).a = 0x00 := rfl
@[simp] theorem cpuReset_x (s : State) : (cpuReset s).x = 0x00 := rfl
@[simp] theorem cpuReset_y (s : State) : (cpuReset s).y = 0x00 := rfl
@[simp] theorem cpuReset_sp (s : State) : (cpuReset s).sp = 0xFD := rfl
@[simp] theorem cpuReset_p (s : State) : (cpuReset s).p = 0x24 := rfl
@[simp] theorem cpuReset_pc (s : State) :
    (cpuReset s).pc = word (prgRead s.cart 0xFFFD) (prgRead s.cart 0xFFFC) := rfl
@[simp] theorem cpuReset_cpuRam (s : State) : (cpuReset s).cpuRam = s.cpuRam := rfl
@[simp] theorem cpuReset_ppu (s : State) : (cpuReset s).ppu = s.ppu := rfl
@[simp] theorem cpuReset_run (s : State) : (cpuReset s).run = .running := rfl
@[simp] theorem cpuReset_cart (s : State) : (cpuReset s).cart = s.cart := rfl
@[simp] theorem cpuReset_host (s : State) : (cpuReset s).host = s.host := rfl

@[simp] theorem pop_fst (s : State) :
    (pop s).1 = s.cpuRam.read (ramIndex (stackAddr (s.sp + 1))) := rfl

@[simp] theorem popWord_fst (s : State) :
    (popWord s).1 = word (s.cpuRam.read (ramIndex (stackAddr (s.sp + 1 + 1))))
      (s.cpuRam.read (ramIndex (stackAddr (s.sp + 1)))) := rfl

end Sys2Proof.Machine
end

