-- ==== Sys2Proof/Laws/Flags.lean ====
section
/-! SUPPORT. What each flag computation leaves in each flag, and the bits of P that it keeps. -/

namespace Sys2Proof.Machine

/-- A written flag holds the written bit and every other flag what it held. -/
@[simp] theorem flag_putFlag (p : Byte) (f g : Flag) (b : Bool) :
    flag (putFlag p f b) g = if g = f then b else flag p g := by
  cases b <;> cases f <;> cases g <;> simp [flag, putFlag, Flag.mask, Flag.bit]

/-- Two status bytes with the same flags are the same byte: P has no other bit (R26). -/
theorem status_ext {p q : Byte} (h : ∀ f, flag p f = flag q f) : p = q := by
  have hc := h .c
  have hz := h .z
  have hi := h .i
  have hd := h .d
  have hb1 := h .b1
  have hb2 := h .b2
  have hv := h .v
  have hn := h .n
  simp only [flag, Flag.bit] at hc hz hi hd hb1 hb2 hv hn
  refine BitVec.eq_of_getLsbD_eq fun i hlt => ?_
  have : i = 0 ∨ i = 1 ∨ i = 2 ∨ i = 3 ∨ i = 4 ∨ i = 5 ∨ i = 6 ∨ i = 7 := by omega
  rcases this with rfl | rfl | rfl | rfl | rfl | rfl | rfl | rfl <;> assumption

theorem flag_setZN (v : Byte) (s : State) (g : Flag) :
    flag (setZN v s).p g = if g = .n then v.getLsbD 7 else if g = .z then v == 0 else flag s.p g := by
  simp [setZN]

@[simp] theorem flag_compare (r m : Byte) (s : State) (g : Flag) :
    flag (compare r m s).p g =
      if g = .n then (r - m).getLsbD 7 else if g = .z then r - m == 0
      else if g = .c then decide (m ≤ r) else flag s.p g := by
  simp [compare]

/-- The result of the adder: the low byte of A + v + C (R216). -/
@[simp] theorem addToA_a (v : Byte) (s : State) : (addToA v s).a = s.a + v + carryByte s.p := by
  simp only [addToA, setZN]
  refine BitVec.eq_of_toNat_eq ?_
  simp [BitVec.toNat_add]

/-- The flags of the adder (R216); D, I and the break bits are kept. -/
@[simp] theorem flag_addToA (v : Byte) (s : State) (g : Flag) :
    flag (addToA v s).p g =
      if g = .n then (s.a + v + carryByte s.p).getLsbD 7
      else if g = .z then s.a + v + carryByte s.p == 0
      else if g = .v then
        ((v ^^^ (s.a + v + carryByte s.p)) &&& (s.a ^^^ (s.a + v + carryByte s.p)) &&& 0x80) != 0
      else if g = .c then decide (0xFF < s.a.toNat + v.toNat + (carryByte s.p).toNat)
      else flag s.p g := by
  have h : BitVec.ofNat 8 (s.a.toNat + v.toNat + (carryByte s.p).toNat) =
      s.a + v + carryByte s.p := addToA_a v s
  simp only [addToA, flag_setZN, h, flag_putFlag]

/-- The popped status has B1 clear and B2 set, and every other flag as popped (R247). -/
@[simp] theorem flag_statusPopped (v : Byte) (f : Flag) :
    flag (statusPopped v) f = if f = .b1 then false else if f = .b2 then true else flag v f := by
  cases f <;> simp [flag, statusPopped, Flag.bit]

/-- The pushed status has both break bits set, and every other flag as P has it (R246). -/
@[simp] theorem flag_statusPushed (p : Byte) (f : Flag) :
    flag (statusPushed p) f = if f = .b1 ∨ f = .b2 then true else flag p f := by
  cases f <;> simp [flag, statusPushed, Flag.bit]

/-- Writing a flag other than the break bits keeps both of them. -/
@[simp] theorem breakBits_putFlag {p : Byte} {f : Flag} {b : Bool} (h1 : f ≠ .b1) (h2 : f ≠ .b2) :
    breakBits (putFlag p f b) = breakBits p := by
  simp [breakBits, Ne.symm h1, Ne.symm h2]

@[simp] theorem breakBits_statusPopped (v : Byte) : breakBits (statusPopped v) = true := by
  simp [breakBits]

end Sys2Proof.Machine
end

