-- ==== Sys2Proof/Laws/Operands.lean ====
section
/-! SUPPORT. When the shared shapes of an instruction (read, store, read-modify-write) answer a next state, and which. -/

namespace Sys2Proof.Machine

@[simp] theorem finish_next (r : Except Fault State) (t : State) :
    finish r = .next t ↔ r = .ok t := by
  cases r <;> simp [finish]

@[simp] theorem finish_fault (r : Except Fault State) (f : Fault) :
    finish r = .fault f ↔ r = .error f := by
  cases r <;> simp [finish]

/-- No shared shape refuses. -/
theorem finish_not_refused (r : Except Fault State) (q : Refusal) : finish r ≠ .refused q := by
  cases r <;> simp [finish]

theorem bind_ok {α β : Type} {r : Except Fault α} {f : α → Except Fault β} {b : β} :
    (r >>= f) = .ok b ↔ ∃ a, r = .ok a ∧ f a = .ok b := by
  cases r <;> simp [bind, Except.bind]

theorem bind_error {α β : Type} {r : Except Fault α} {f : α → Except Fault β} {e : Fault} :
    (r >>= f) = .error e ↔ r = .error e ∨ ∃ a, r = .ok a ∧ f a = .error e := by
  cases r <;> simp [bind, Except.bind]

/-- Every operand but the accumulator resolves (R155 to R164). -/
theorem resolve_ok {m : Operand} (h : m ≠ .acc) (s : State) : ∃ ea, resolve m s = .ok ea := by
  cases m <;> first | exact ⟨_, rfl⟩ | exact absurd rfl h

/-- An operand is read from the instruction itself or with one bus read at its effective address (R166). -/
theorem readOperand_cases {m : Operand} {s t : State} {v : Byte}
    (h : readOperand m s = .ok (v, t)) :
    (m = .imm v ∧ t = s) ∨
      ((∀ b, m ≠ .imm b) ∧ ∃ ea, resolve m s = .ok ea ∧ busRead ea s = .ok (v, t)) := by
  cases m with
  | imm b => cases h; exact .inl ⟨rfl, rfl⟩
  | acc => cases h
  | _ => exact .inr ⟨by simp, by simpa [readOperand, bind_ok] using h⟩

/-- Reading an operand changes at most `ppu_addr` and the read buffer. -/
theorem readOperand_effect {m : Operand} {s t : State} {v : Byte}
    (h : readOperand m s = .ok (v, t)) :
    t = { s with ppu := { s.ppu with addr := t.ppu.addr, readBuffer := t.ppu.readBuffer } } := by
  rcases readOperand_cases h with ⟨-, rfl⟩ | ⟨-, ea, -, h⟩
  · rfl
  · exact busRead_effect h

theorem readInstr_next {m : Operand} {f : Byte → State → State} {s t : State} :
    readInstr m f s = .next t ↔
      ∃ v s1, readOperand m s = .ok (v, s1) ∧ t = advance m.length (f v s1) := by
  simp only [readInstr, finish_next, bind_ok, Prod.exists, Except.ok.injEq]
  exact ⟨fun ⟨v, s1, h, e⟩ => ⟨v, s1, h, e.symm⟩, fun ⟨v, s1, h, e⟩ => ⟨v, s1, h, e.symm⟩⟩

theorem storeInstr_next {m : Operand} {v : Addr → Byte} {s t : State} :
    storeInstr m v s = .next t ↔
      ∃ ea s1, resolve m s = .ok ea ∧ busWrite ea (v ea) s = .ok s1 ∧
        t = advance m.length s1 := by
  simp only [storeInstr, finish_next, bind_ok, Except.ok.injEq]
  constructor
  · rintro ⟨ea, h1, s1, h2, e⟩
    exact ⟨ea, s1, h1, h2, e.symm⟩
  · rintro ⟨ea, s1, h1, h2, e⟩
    exact ⟨ea, h1, s1, h2, e.symm⟩

theorem modifyInstr_next {m : Operand} {r : Byte → Byte} {g : Byte → Byte → State → State}
    {s t : State} :
    modifyInstr m r g s = .next t ↔
      ∃ ea old s1 s2, resolve m s = .ok ea ∧ busRead ea s = .ok (old, s1) ∧
        busWrite ea (r old) s1 = .ok s2 ∧ t = advance m.length (g old (r old) s2) := by
  simp only [modifyInstr, finish_next, bind_ok, Prod.exists, Except.ok.injEq]
  constructor
  · rintro ⟨ea, h1, old, s1, h2, s2, h3, e⟩
    exact ⟨ea, old, s1, s2, h1, h2, h3, e.symm⟩
  · rintro ⟨ea, old, s1, s2, h1, h2, h3, e⟩
    exact ⟨ea, h1, old, s1, h2, s2, h3, e.symm⟩

end Sys2Proof.Machine
end

