-- ==== Sys2Proof/Laws/PerInstr.lean ====
section
/-! SUPPORT. The family EncodeLength: an encodable instruction's words are exactly as many bytes as its length says (R120), said
once for each constructor. -/

namespace Sys2Proof.Laws.EncodeLength

/-- The statement of the family: a well-formed instruction is encoded in its length's number of bytes. -/
def Statement (i : Instr) : Prop := i.wf = true → (encode i).length = i.length

theorem lda (m : Operand) : Statement (.lda m) := by
  cases m <;> first | exact fun _ => rfl | exact fun h => absurd h Bool.false_ne_true

theorem ldx (m : Operand) : Statement (.ldx m) := by
  cases m <;> first | exact fun _ => rfl | exact fun h => absurd h Bool.false_ne_true

theorem ldy (m : Operand) : Statement (.ldy m) := by
  cases m <;> first | exact fun _ => rfl | exact fun h => absurd h Bool.false_ne_true

theorem sta (m : Operand) : Statement (.sta m) := by
  cases m <;> first | exact fun _ => rfl | exact fun h => absurd h Bool.false_ne_true

theorem stx (m : Operand) : Statement (.stx m) := by
  cases m <;> first | exact fun _ => rfl | exact fun h => absurd h Bool.false_ne_true

theorem sty (m : Operand) : Statement (.sty m) := by
  cases m <;> first | exact fun _ => rfl | exact fun h => absurd h Bool.false_ne_true

theorem tax : Statement .tax := fun _ => rfl

theorem tay : Statement .tay := fun _ => rfl

theorem txa : Statement .txa := fun _ => rfl

theorem tya : Statement .tya := fun _ => rfl

theorem tsx : Statement .tsx := fun _ => rfl

theorem txs : Statement .txs := fun _ => rfl

theorem adc (m : Operand) : Statement (.adc m) := by
  cases m <;> first | exact fun _ => rfl | exact fun h => absurd h Bool.false_ne_true

theorem sbc (m : Operand) : Statement (.sbc m) := by
  cases m <;> first | exact fun _ => rfl | exact fun h => absurd h Bool.false_ne_true

theorem and (m : Operand) : Statement (.and m) := by
  cases m <;> first | exact fun _ => rfl | exact fun h => absurd h Bool.false_ne_true

theorem ora (m : Operand) : Statement (.ora m) := by
  cases m <;> first | exact fun _ => rfl | exact fun h => absurd h Bool.false_ne_true

theorem eor (m : Operand) : Statement (.eor m) := by
  cases m <;> first | exact fun _ => rfl | exact fun h => absurd h Bool.false_ne_true

theorem bit (m : Operand) : Statement (.bit m) := by
  cases m <;> first | exact fun _ => rfl | exact fun h => absurd h Bool.false_ne_true

theorem cmp (m : Operand) : Statement (.cmp m) := by
  cases m <;> first | exact fun _ => rfl | exact fun h => absurd h Bool.false_ne_true

theorem cpx (m : Operand) : Statement (.cpx m) := by
  cases m <;> first | exact fun _ => rfl | exact fun h => absurd h Bool.false_ne_true

theorem cpy (m : Operand) : Statement (.cpy m) := by
  cases m <;> first | exact fun _ => rfl | exact fun h => absurd h Bool.false_ne_true

theorem inc (m : Operand) : Statement (.inc m) := by
  cases m <;> first | exact fun _ => rfl | exact fun h => absurd h Bool.false_ne_true

theorem dec (m : Operand) : Statement (.dec m) := by
  cases m <;> first | exact fun _ => rfl | exact fun h => absurd h Bool.false_ne_true

theorem inx : Statement .inx := fun _ => rfl

theorem iny : Statement .iny := fun _ => rfl

theorem dex : Statement .dex := fun _ => rfl

theorem dey : Statement .dey := fun _ => rfl

theorem asl (m : Operand) : Statement (.asl m) := by
  cases m <;> first | exact fun _ => rfl | exact fun h => absurd h Bool.false_ne_true

theorem lsr (m : Operand) : Statement (.lsr m) := by
  cases m <;> first | exact fun _ => rfl | exact fun h => absurd h Bool.false_ne_true

theorem rol (m : Operand) : Statement (.rol m) := by
  cases m <;> first | exact fun _ => rfl | exact fun h => absurd h Bool.false_ne_true

theorem ror (m : Operand) : Statement (.ror m) := by
  cases m <;> first | exact fun _ => rfl | exact fun h => absurd h Bool.false_ne_true

theorem pha : Statement .pha := fun _ => rfl

theorem pla : Statement .pla := fun _ => rfl

theorem php : Statement .php := fun _ => rfl

theorem plp : Statement .plp := fun _ => rfl

theorem jsr (t : Addr) : Statement (.jsr t) := fun _ => rfl

theorem rts : Statement .rts := fun _ => rfl

theorem rti : Statement .rti := fun _ => rfl

theorem bcc (d : Byte) : Statement (.bcc d) := fun _ => rfl

theorem bcs (d : Byte) : Statement (.bcs d) := fun _ => rfl

theorem beq (d : Byte) : Statement (.beq d) := fun _ => rfl

theorem bmi (d : Byte) : Statement (.bmi d) := fun _ => rfl

theorem bne (d : Byte) : Statement (.bne d) := fun _ => rfl

theorem bpl (d : Byte) : Statement (.bpl d) := fun _ => rfl

theorem bvc (d : Byte) : Statement (.bvc d) := fun _ => rfl

theorem bvs (d : Byte) : Statement (.bvs d) := fun _ => rfl

theorem jmp (t : Addr) : Statement (.jmp t) := fun _ => rfl

theorem jmpInd (ptr : Addr) : Statement (.jmpInd ptr) := fun _ => rfl

theorem clc : Statement .clc := fun _ => rfl

theorem sec : Statement .sec := fun _ => rfl

theorem cli : Statement .cli := fun _ => rfl

theorem sei : Statement .sei := fun _ => rfl

theorem cld : Statement .cld := fun _ => rfl

theorem sed : Statement .sed := fun _ => rfl

theorem clv : Statement .clv := fun _ => rfl

theorem nop : Statement .nop := fun _ => rfl

theorem brk : Statement .brk := fun _ => rfl

theorem nopIllegal (opc : Byte) : Statement (.nopIllegal opc) := fun _ => rfl

theorem skb (opc : Byte) (v : Byte) : Statement (.skb opc v) := fun _ => rfl

theorem ign (opc : Byte) (m : Operand) : Statement (.ign opc m) := by
  cases m <;> exact fun _ => rfl

theorem lax (m : Operand) : Statement (.lax m) := by
  cases m <;> first | exact fun _ => rfl | exact fun h => absurd h Bool.false_ne_true

theorem sax (m : Operand) : Statement (.sax m) := by
  cases m <;> first | exact fun _ => rfl | exact fun h => absurd h Bool.false_ne_true

theorem dcp (m : Operand) : Statement (.dcp m) := by
  cases m <;> first | exact fun _ => rfl | exact fun h => absurd h Bool.false_ne_true

theorem isc (m : Operand) : Statement (.isc m) := by
  cases m <;> first | exact fun _ => rfl | exact fun h => absurd h Bool.false_ne_true

theorem anc (opc : Byte) (v : Byte) : Statement (.anc opc v) := fun _ => rfl

theorem alr (v : Byte) : Statement (.alr v) := fun _ => rfl

theorem arr (v : Byte) : Statement (.arr v) := fun _ => rfl

theorem axs (v : Byte) : Statement (.axs v) := fun _ => rfl

theorem sbcAlias (v : Byte) : Statement (.sbcAlias v) := fun _ => rfl

theorem las (w : Addr) : Statement (.las w) := fun _ => rfl

theorem ahx (m : Operand) : Statement (.ahx m) := by
  cases m <;> first | exact fun _ => rfl | exact fun h => absurd h Bool.false_ne_true

theorem shx (w : Addr) : Statement (.shx w) := fun _ => rfl

theorem shy (w : Addr) : Statement (.shy w) := fun _ => rfl

theorem tas (w : Addr) : Statement (.tas w) := fun _ => rfl

theorem kil (opc : Byte) : Statement (.kil opc) := fun _ => rfl

theorem unknown (opc : Byte) : Statement (.unknown opc) := fun _ => rfl

end Sys2Proof.Laws.EncodeLength
end

