-- ==== Sys2Proof/Laws/Step.lean ====
section
/-! SUPPORT. Everything a step, a fetch and a call of the host callback can do when they answer a next state. -/

namespace Sys2Proof.Machine

/-- A step that answers a next state stutters on a halted machine, or runs one fetched instruction. -/
theorem step_cases {s t : State} (h : step s = .next t) :
    (s.run = .halted ∧ t = s) ∨
      (s.run = .running ∧ ∃ s0 i s1, runHost s = .ok s0 ∧ fetch s0 = .ok (i, s1) ∧
        exec i s1 = .next t) := by
  simp only [step] at h
  split at h
  · rename_i hr
    cases h
    exact .inl ⟨hr, rfl⟩
  · cases h
  · rename_i hr
    split at h
    · cases h
    · rename_i s0 h0
      split at h
      · cases h
      · rename_i i s1 h1
        exact .inr ⟨hr, s0, i, s1, h0, h1, h⟩

/-- A completed fetch is the opcode read and then as many operand reads as the instruction makes; a byte
that is not read stands as zero (R150, R151). -/
theorem fetch_cases {s t : State} {i : Instr} (h : fetch s = .ok (i, t)) :
    ∃ opc s1, busRead s.pc s = .ok (opc, s1) ∧
      ((operandReads (instrAt opc 0 0) s.p = 0 ∧ i = instrAt opc 0 0 ∧ t = s1) ∨
        (operandReads (instrAt opc 0 0) s.p = 1 ∧
          ∃ b1, busRead (s.pc + 1) s1 = .ok (b1, t) ∧ i = instrAt opc b1 0) ∨
        (∃ b1 s2 b2, busRead (s.pc + 1) s1 = .ok (b1, s2) ∧
          busRead (s.pc + 2) s2 = .ok (b2, t) ∧ i = instrAt opc b1 b2)) := by
  simp only [fetch, bind_ok, Prod.exists] at h
  obtain ⟨opc, s1, h1, h⟩ := h
  refine ⟨opc, s1, h1, ?_⟩
  split at h
  · rename_i hn
    cases h
    exact .inl ⟨hn, rfl, rfl⟩
  · rename_i hn
    simp only [bind_ok, Prod.exists] at h
    obtain ⟨b1, s2, h2, h⟩ := h
    cases h
    exact .inr (.inl ⟨hn, b1, h2, rfl⟩)
  · simp only [bind_ok, Prod.exists] at h
    obtain ⟨b1, s2, h2, b2, s3, h3, h⟩ := h
    cases h
    exact .inr (.inr ⟨b1, s2, b2, h2, h3, rfl⟩)

/-- A completed fetch changes at most `ppu_addr` and the read buffer; in particular PC still names the
opcode byte when the instruction's meaning runs. -/
theorem fetch_effect {s t : State} {i : Instr} (h : fetch s = .ok (i, t)) :
    t = { s with ppu := { s.ppu with addr := t.ppu.addr, readBuffer := t.ppu.readBuffer } } := by
  obtain ⟨opc, s1, h1, h⟩ := fetch_cases h
  have e1 := busRead_effect h1
  rcases h with ⟨-, -, rfl⟩ | ⟨-, b1, h2, -⟩ | ⟨b1, s2, b2, h2, h3, -⟩
  · exact e1
  · have e2 := busRead_effect h2
    rw [e1] at e2
    exact e2
  · have e2 := busRead_effect h2
    have e3 := busRead_effect h3
    rw [e1] at e2
    rw [e2] at e3
    exact e3

/-- One completed effect of the callback: it writes registers or latches and leaves every array, it writes one cell
of an array of the PPU, it is one bus access, or it resets. Each leaves the cartridge and the callback. -/
theorem runHostAct_cases {act : HostAct} {s t : State} (h : runHostAct act s = .ok t) :
    (∃ a x y sp p pc run u, t = { s with
        a := a, x := x, y := y, sp := sp, p := p, pc := pc, run := run, ppu := u } ∧
      u.vram = s.ppu.vram ∧ u.palette = s.ppu.palette ∧ u.oam = s.ppu.oam ∧
      (act.writesP = false → p = s.p)) ∨
    (∃ k v, act = .setVram k v ∧ t = { s with ppu := { s.ppu with vram := s.ppu.vram.write k v } }) ∨
    (∃ k v, act = .setPalette k v ∧
      t = { s with ppu := { s.ppu with palette := s.ppu.palette.write k v } }) ∨
    (∃ k v, act = .setOam k v ∧ t = { s with ppu := { s.ppu with oam := s.ppu.oam.write k v } }) ∨
    (∃ addr v, busRead addr s = .ok (v, t)) ∨ (∃ addr v, busWrite addr v s = .ok t) ∨
    t = cpuReset s := by
  cases act with
  | busRead addr =>
    simp only [runHostAct, bind_ok, Prod.exists, Except.ok.injEq] at h
    obtain ⟨v, s1, h, rfl⟩ := h
    exact .inr (.inr (.inr (.inr (.inl ⟨addr, v, h⟩))))
  | busWrite addr v => exact .inr (.inr (.inr (.inr (.inr (.inl ⟨addr, v, h⟩)))))
  | reset =>
    cases h
    exact .inr (.inr (.inr (.inr (.inr (.inr rfl)))))
  | setVram k v =>
    cases h
    exact .inr (.inl ⟨k, v, rfl, rfl⟩)
  | setPalette k v =>
    cases h
    exact .inr (.inr (.inl ⟨k, v, rfl, rfl⟩))
  | setOam k v =>
    cases h
    exact .inr (.inr (.inr (.inl ⟨k, v, rfl, rfl⟩)))
  | setRun r =>
    cases r with
    | fatal f => cases h
    | running | halted =>
      cases h
      exact .inl ⟨_, _, _, _, _, _, _, _, rfl, rfl, rfl, rfl, fun _ => rfl⟩
  | setP v =>
    cases h
    exact .inl ⟨_, _, _, _, _, _, _, _, rfl, rfl, rfl, rfl, fun hp => by cases hp⟩
  | setA | setX | setY | setSp | setPc | setPpuAddr | setAddrLatch | setPpuCtrl | setPpuMask
  | setScrollX | setScrollY | setScrollLatch | setReadBuffer =>
    cases h
    exact .inl ⟨_, _, _, _, _, _, _, _, rfl, rfl, rfl, rfl, fun _ => rfl⟩

/-- An effect of the callback keeps the cartridge and the callback itself. -/
theorem runHostAct_cart_host {act : HostAct} {s t : State} (h : runHostAct act s = .ok t) :
    t.cart = s.cart ∧ t.host = s.host := by
  rcases runHostAct_cases h with ⟨_, _, _, _, _, _, _, _, rfl, -⟩ | ⟨_, _, -, rfl⟩ | ⟨_, _, -, rfl⟩ |
    ⟨_, _, -, rfl⟩ | ⟨_, _, h⟩ | ⟨_, _, h⟩ | rfl
  · exact ⟨rfl, rfl⟩
  · exact ⟨rfl, rfl⟩
  · exact ⟨rfl, rfl⟩
  · exact ⟨rfl, rfl⟩
  · rw [busRead_effect h]
    exact ⟨rfl, rfl⟩
  · rw [(busWrite_effect h).1]
    exact ⟨rfl, rfl⟩
  · exact ⟨rfl, rfl⟩

/-- What every effect of a call keeps, the call keeps. -/
theorem runHostActs_keeps {inv : State → Prop} {acts : List HostAct}
    (keeps : ∀ act ∈ acts, ∀ s t, inv s → runHostAct act s = .ok t → inv t) {s t : State}
    (hs : inv s) (h : runHostActs acts s = .ok t) : inv t := by
  induction acts generalizing s with
  | nil =>
    cases h
    exact hs
  | cons act rest ih =>
    simp only [runHostActs, bind_ok] at h
    obtain ⟨s1, h1, h⟩ := h
    exact ih (fun a ha => keeps a (List.mem_cons_of_mem _ ha))
      (keeps act List.mem_cons_self s s1 hs h1) h

/-- The effects of two lists of effects, one after the other. -/
theorem runHostActs_append (acts more : List HostAct) (s : State) :
    runHostActs (acts ++ more) s = (runHostActs acts s >>= runHostActs more) := by
  induction acts generalizing s with
  | nil => rfl
  | cons act rest ih =>
    simp only [List.cons_append, runHostActs]
    cases runHostAct act s with
    | error f => rfl
    | ok s1 => exact ih s1

/-- A completed call leaves the cartridge, and the callback with that call made. -/
theorem runHost_cart_host {s t : State} (h : runHost s = .ok t) :
    t.cart = s.cart ∧ t.host = s.host.next :=
  runHostActs_keeps (inv := fun u => u.cart = s.cart ∧ u.host = s.host.next)
    (fun _ _ _ _ hs ha =>
      ⟨(runHostAct_cart_host ha).1.trans hs.1, (runHostAct_cart_host ha).2.trans hs.2⟩)
    (s := { s with host := s.host.next }) ⟨rfl, rfl⟩ h

/-- With `HOST` = identity nothing happens before the fetch. -/
@[simp] theorem runHost_identity {s : State} (h : s.host = .identity) : runHost s = .ok s := by
  cases s
  cases h
  rfl

/-- What all calls to come satisfy, the next call does. -/
theorem hostAll_call {good : HostAct → Bool} {s : State} (h : hostAll good s) :
    ∀ act ∈ hostCall s, good act = true := by
  unfold hostAll at h
  unfold hostCall
  split at h
  · rename_i calls hc
    rw [hc]
    cases calls with
    | nil => exact fun _ hm => absurd hm List.not_mem_nil
    | cons acts rest =>
      rw [List.all_cons, Bool.and_eq_true] at h
      exact List.all_eq_true.1 h.1
  · rename_i m hc
    rw [hc]
    exact List.all_eq_true.1 (h m s (Nat.le_refl m))

/-- What all calls to come satisfy, the calls after the next one do. -/
theorem hostAll_next {good : HostAct → Bool} {s t : State} (h : hostAll good s)
    (ht : t.host = s.host.next) : hostAll good t := by
  unfold hostAll at h ⊢
  rw [ht]
  split at h
  · rename_i calls hc
    rw [hc]
    cases calls with
    | nil => rfl
    | cons acts rest =>
      rw [List.all_cons, Bool.and_eq_true] at h
      exact h.2
  · rename_i m hc
    rw [hc]
    exact fun n u hn => h n u (Nat.le_of_succ_le hn)

end Sys2Proof.Machine
end

