-- ==== Sys2Proof/Tests/Slice0.lean ====
section
/-! SUPPORT. Tests of the model: the syntax check and the decoder on words written out from the spec's tables, the spec's own
vectors of spec/96_derived_vectors.md (expected values from there), the launch state, and for every statement with
hypotheses a state and operands that meet them. -/

namespace Sys2Proof.Tests

open Sys2Proof Sys2Proof.Machine

set_option Elab.async false

/-! ### Helpers -/

/-- The bytes placed from `pc` on. -/
def placed : List Byte → Addr → State → State
  | [], _, s => s
  | b :: rest, pc, s => placed rest (pc + 1) (placeByte pc b s)

/-- The state after reset with these instruction bytes at `pc`, about to be fetched. -/
def code (pc : Addr) (bytes : List Byte) : State := placed bytes pc { State.reset with pc := pc }

/-- The state with these bytes written in `cpu_ram`. -/
def cells : List (Nat × Byte) → State → State
  | [], s => s
  | (k, v) :: rest, s => cells rest { s with cpuRam := s.cpuRam.write k v }

/-- What one step leaves in the fields `f`. -/
def after {α : Type} (s : State) (f : State → α) : Option α :=
  match step s with
  | .next t => some (f t)
  | .fault _ | .refused _ => none

/-- The fatal one step ends in. -/
def fatalOf (s : State) : Option Fault :=
  match step s with
  | .fault f => some f
  | .next _ | .refused _ => none

/-- The state an outcome goes on with. -/
def nextOf (r : Result State) : Option State :=
  match r with
  | .next t => some t
  | .fault _ | .refused _ => none

/-- The fatal an outcome is. -/
def faultOf (r : Result State) : Option Fault :=
  match r with
  | .fault f => some f
  | .next _ | .refused _ => none

theorem eq_next {r : Result State} {t : State} (h : nextOf r = some t) : r = .next t := by
  cases r <;> simp_all [nextOf]

theorem eq_fault {r : Result State} {f : Fault} (h : faultOf r = some f) : r = .fault f := by
  cases r <;> simp_all [faultOf]

/-- The state after reset with `ppu_addr` set. -/
def port (a : Addr) : State := { State.reset with ppu := { State.reset.ppu with addr := a } }

/-- The same with another mirroring. -/
def mirrored (m : Mirroring) (s : State) : State := { s with cart := { s.cart with mirroring := m } }

/-! ### WellFormed: every check refuses a term -/

/-- One operand form outside the columns of R123 and R124 for each mode check. -/
theorem test_wf_refuses_operand_forms :
    (Instr.lda .acc).wf = false ∧ (Instr.adc (.zpy 1)).wf = false ∧
    (Instr.ldx (.zpx 1)).wf = false ∧ (Instr.ldy (.zpy 1)).wf = false ∧
    (Instr.sta (.imm 1)).wf = false ∧ (Instr.stx (.zpx 1)).wf = false ∧
    (Instr.sty (.zpy 1)).wf = false ∧ (Instr.bit (.imm 1)).wf = false ∧
    (Instr.cpx (.zpx 1)).wf = false ∧ (Instr.cpy (.absx 1)).wf = false ∧
    (Instr.inc .acc).wf = false ∧ (Instr.dec (.absy 1)).wf = false ∧
    (Instr.asl (.imm 1)).wf = false ∧ (Instr.ror (.indy 1)).wf = false ∧
    (Instr.lax (.imm 1)).wf = false ∧ (Instr.sax (.absy 1)).wf = false ∧
    (Instr.dcp .acc).wf = false ∧ (Instr.isc (.zpy 1)).wf = false ∧
    (Instr.ahx (.abs 1)).wf = false := by
  decide

/-- One byte outside the list for each constructor that carries its opcode byte. -/
theorem test_wf_refuses_opcode_bytes :
    (Instr.nopIllegal 0xEA).wf = false ∧ (Instr.skb 0x04 1).wf = false ∧
    (Instr.ign 0x04 (.abs 1)).wf = false ∧ (Instr.ign 0x0C (.absx 1)).wf = false ∧
    (Instr.ign 0x14 (.zp 1)).wf = false ∧ (Instr.ign 0x04 (.zpx 1)).wf = false ∧
    (Instr.ign 0x80 (.imm 1)).wf = false ∧ (Instr.anc 0x4B 1).wf = false ∧
    (Instr.kil 0x03).wf = false ∧ (Instr.unknown 0x02).wf = false := by
  decide

/-! ### Decoding: words written out from R121, R123, R124, R125 and R126, the first byte lowest -/

theorem test_decode_loads :
    decodeTableWord 16 0x12B1 = some (.lda (.indy 0x12)) ∧
    decodeTableWord 24 0x3412BD = some (.lda (.absx 0x3412)) ∧
    decodeTableWord 24 0x3412BE = some (.ldx (.absy 0x3412)) ∧
    decodeTableWord 24 0x3412BC = some (.ldy (.absx 0x3412)) ∧
    decodeTableWord 16 0x1281 = some (.sta (.indx 0x12)) ∧
    decodeTableWord 16 0x1296 = some (.stx (.zpy 0x12)) ∧
    decodeTableWord 16 0x1294 = some (.sty (.zpx 0x12)) := by
  decide +kernel

theorem test_decode_transfers :
    decodeTableWord 8 0xAA = some .tax ∧
    decodeTableWord 8 0xA8 = some .tay ∧
    decodeTableWord 8 0x8A = some .txa ∧
    decodeTableWord 8 0x98 = some .tya ∧
    decodeTableWord 8 0xBA = some .tsx ∧
    decodeTableWord 8 0x9A = some .txs := by
  decide +kernel

theorem test_decode_arithmetic :
    decodeTableWord 16 0x1269 = some (.adc (.imm 0x12)) ∧
    decodeTableWord 16 0x12F1 = some (.sbc (.indy 0x12)) ∧
    decodeTableWord 24 0x341239 = some (.and (.absy 0x3412)) ∧
    decodeTableWord 16 0x1215 = some (.ora (.zpx 0x12)) ∧
    decodeTableWord 16 0x1241 = some (.eor (.indx 0x12)) ∧
    decodeTableWord 24 0x34122C = some (.bit (.abs 0x3412)) ∧
    decodeTableWord 24 0x3412DD = some (.cmp (.absx 0x3412)) ∧
    decodeTableWord 16 0x12E4 = some (.cpx (.zp 0x12)) ∧
    decodeTableWord 16 0x12C0 = some (.cpy (.imm 0x12)) := by
  decide +kernel

theorem test_decode_increments :
    decodeTableWord 16 0x12F6 = some (.inc (.zpx 0x12)) ∧
    decodeTableWord 24 0x3412CE = some (.dec (.abs 0x3412)) ∧
    decodeTableWord 8 0xE8 = some .inx ∧
    decodeTableWord 8 0xC8 = some .iny ∧
    decodeTableWord 8 0xCA = some .dex ∧
    decodeTableWord 8 0x88 = some .dey := by
  decide +kernel

theorem test_decode_shifts :
    decodeTableWord 24 0x34121E = some (.asl (.absx 0x3412)) ∧
    decodeTableWord 8 0x0A = some (.asl .acc) ∧
    decodeTableWord 16 0x1246 = some (.lsr (.zp 0x12)) ∧
    decodeTableWord 8 0x4A = some (.lsr .acc) ∧
    decodeTableWord 16 0x1236 = some (.rol (.zpx 0x12)) ∧
    decodeTableWord 8 0x2A = some (.rol .acc) ∧
    decodeTableWord 24 0x34126E = some (.ror (.abs 0x3412)) ∧
    decodeTableWord 8 0x6A = some (.ror .acc) := by
  decide +kernel

theorem test_decode_stack :
    decodeTableWord 8 0x48 = some .pha ∧
    decodeTableWord 8 0x68 = some .pla ∧
    decodeTableWord 8 0x08 = some .php ∧
    decodeTableWord 8 0x28 = some .plp ∧
    decodeTableWord 24 0x341220 = some (.jsr 0x3412) ∧
    decodeTableWord 8 0x60 = some .rts ∧
    decodeTableWord 8 0x40 = some .rti := by
  decide +kernel

theorem test_decode_branches :
    decodeTableWord 16 0x1290 = some (.bcc 0x12) ∧
    decodeTableWord 16 0x12B0 = some (.bcs 0x12) ∧
    decodeTableWord 16 0x12F0 = some (.beq 0x12) ∧
    decodeTableWord 16 0x1230 = some (.bmi 0x12) ∧
    decodeTableWord 16 0x12D0 = some (.bne 0x12) ∧
    decodeTableWord 16 0x1210 = some (.bpl 0x12) ∧
    decodeTableWord 16 0x1250 = some (.bvc 0x12) ∧
    decodeTableWord 16 0x1270 = some (.bvs 0x12) := by
  decide +kernel

theorem test_decode_jumps :
    decodeTableWord 24 0x34124C = some (.jmp 0x3412) ∧
    decodeTableWord 24 0x34126C = some (.jmpInd 0x3412) ∧
    decodeTableWord 8 0x18 = some .clc ∧
    decodeTableWord 8 0x38 = some .sec ∧
    decodeTableWord 8 0x58 = some .cli ∧
    decodeTableWord 8 0x78 = some .sei ∧
    decodeTableWord 8 0xD8 = some .cld ∧
    decodeTableWord 8 0xF8 = some .sed ∧
    decodeTableWord 8 0xB8 = some .clv ∧
    decodeTableWord 8 0xEA = some .nop ∧
    decodeTableWord 8 0x00 = some .brk := by
  decide +kernel

theorem test_decode_illegal :
    decodeTableWord 8 0xDA = some (.nopIllegal 0xDA) ∧
    decodeTableWord 16 0x12C2 = some (.skb 0xC2 0x12) ∧
    decodeTableWord 16 0x12D4 = some (.ign 0xD4 (.zpx 0x12)) ∧
    decodeTableWord 24 0x34120C = some (.ign 0x0C (.abs 0x3412)) ∧
    decodeTableWord 16 0x12B7 = some (.lax (.zpy 0x12)) ∧
    decodeTableWord 16 0x1283 = some (.sax (.indx 0x12)) ∧
    decodeTableWord 24 0x3412DB = some (.dcp (.absy 0x3412)) ∧
    decodeTableWord 16 0x12F7 = some (.isc (.zpx 0x12)) ∧
    decodeTableWord 16 0x122B = some (.anc 0x2B 0x12) ∧
    decodeTableWord 16 0x124B = some (.alr 0x12) ∧
    decodeTableWord 16 0x126B = some (.arr 0x12) ∧
    decodeTableWord 16 0x12CB = some (.axs 0x12) ∧
    decodeTableWord 16 0x12EB = some (.sbcAlias 0x12) := by
  decide +kernel

theorem test_decode_illegal2 :
    decodeTableWord 24 0x3412BB = some (.las 0x3412) ∧
    decodeTableWord 16 0x1293 = some (.ahx (.indy 0x12)) ∧
    decodeTableWord 24 0x34129F = some (.ahx (.absy 0x3412)) ∧
    decodeTableWord 24 0x34129E = some (.shx 0x3412) ∧
    decodeTableWord 24 0x34129C = some (.shy 0x3412) ∧
    decodeTableWord 24 0x34129B = some (.tas 0x3412) ∧
    decodeTableWord 8 0x92 = some (.kil 0x92) ∧
    decodeTableWord 8 0xAB = some (.unknown 0xAB) ∧
    decodeTableWord 8 0x8B = some (.unknown 0x8B) := by
  decide +kernel

/-- The table numbers the opcode byte alone; the operand bytes above it are then zeros. -/
theorem test_decode_zero_operands :
    decodeTableWord 8 0xA9 = some (.lda (.imm 0)) ∧ decodeTableWord 8 0x6C = some (.jmpInd 0) ∧
    decodeTableWord 8 0xFFA9 = some (.lda (.imm 0)) := by
  decide +kernel

/-- A missing byte is refused by name. -/
theorem test_decode_refuses_missing_bytes :
    decode [] = .error .noOpcode ∧ decode [0xA9] = .error (.missingOperand 0xA9) ∧
    decode [0x20, 0x09] = .error (.missingOperand 0x20) := by
  decide +kernel

/-- The encoder writes the words of the tables. -/
theorem test_encode_words :
    encode (.lda (.absx 0x3412)) = [0xBD, 0x12, 0x34] ∧ encode (.ror .acc) = [0x6A] ∧
    encode (.bne 0xF9) = [0xD0, 0xF9] ∧ encode (.ign 0xD4 (.zpx 0x12)) = [0xD4, 0x12] := by
  decide +kernel

/-! ### The launch state and reset -/

/-- Vector "launch state" of spec/95_test_vectors.md, section 0. -/
theorem test_launch_state :
    (State.reset.a, State.reset.x, State.reset.y, State.reset.p, State.reset.sp, State.reset.pc,
      State.reset.run) = (0x00, 0x00, 0x00, 0x24, 0xFD, 0x0600, .running) := by
  decide

/-- Vector V70.2: two banks, vector $C123. -/
theorem test_reset_V70_2 :
    (cpuReset { State.reset with
      cart := { Config.defaultCartridge with prgBanks := .two, prg := [(0x7FFC, 0x23), (0x7FFD, 0xC1)] } }).pc =
      0xC123 := by
  decide +kernel

/-- The word that withFetchWord places is the one the next step runs (log 3). -/
theorem test_withFetchWord_runs :
    after (State.reset.withFetchWord 8 0xE8) (fun t => (t.x, t.pc)) = some (0x01, 0x0601) ∧
    after ({ State.reset with run := .halted, pc := 0x8000 }.withFetchWord 16 0x42A9)
      (fun t => (t.a, t.pc)) = some (0x42, 0x8002) ∧
    after ({ State.reset with pc := 0x1FFE }.withFetchWord 16 0x42A9)
      (fun t => (t.a, t.pc)) = some (0x42, 0x0602) := by
  decide +kernel

/-- The load helper (R376): the bytes of the program stand in RAM from $0600 on. -/
theorem test_load_helper :
    (runHostActs (loadActs 0x0600 [0xA9, 0x42]) State.reset).map (·.cpuRam) =
      .ok [(0x600, 0xA9), (0x601, 0x42)] ∧
    (runHostActs (snakeActs 0x5A 0x77) State.reset).map (·.cpuRam) =
      .ok [(0xFE, 0x5A), (0xFF, 0x77)] := by
  decide +kernel

/-! ### The spec's vectors, one step each -/

/-- R180, vector V40.17. -/
theorem test_lda_V40_17 :
    after { (code 0x0600 [0xB1, 0xFF] |> cells [(0x000, 0x02), (0x0FF, 0x40), (0x100, 0x03), (0x241, 0xEF), (0x341, 0x99)]) with y := 0x01 }
    (fun t => (t.a, t.p, t.pc)) = some (0xEF, 0xA4, 0x0602) := by
  decide +kernel

/-- R180, vector V40.19. -/
theorem test_lda_V40_19 :
    after (code 0xFFFF [0xA9, 0x55])
    (fun t => (t.a, t.p, t.pc)) = some (0x55, 0x24, 0x0001) := by
  decide +kernel

/-- R181, vector V40.5. -/
theorem test_ldx_V40_5 :
    after { (code 0x0600 [0xB6, 0xFF] |> cells [(0x001, 0x55), (0x101, 0x66)]) with y := 0x02 }
    (fun t => (t.x, t.p, t.pc)) = some (0x55, 0x24, 0x0602) := by
  decide +kernel

/-- R182, vector V41.10. -/
theorem test_ldy_V41_10 :
    after { (code 0x0600 [0xBC, 0x00, 0x03] |> cells [(0x310, 0x09)]) with x := 0x10 }
    (fun t => (t.y, t.p, t.pc)) = some (0x09, 0x24, 0x0603) := by
  decide +kernel

/-- R183, vector V41.12. -/
theorem test_sta_V41_12 :
    after { (code 0x0600 [0x95, 0xF0]) with a := 0x11, x := 0x20 }
    (fun t => (t.p, t.pc, t.cpuRam.read 0x010)) = some (0x24, 0x0602, 0x11) := by
  decide +kernel

/-- R183, vector V41.18. -/
theorem test_sta_V41_18 :
    after { (code 0x0600 [0x91, 0x20] |> cells [(0x020, 0xF8), (0x021, 0x02)]) with a := 0x5D, y := 0x10 }
    (fun t => (t.p, t.pc, t.cpuRam.read 0x308)) = some (0x24, 0x0602, 0x5D) := by
  decide +kernel

/-- R184, vector V41.20. -/
theorem test_stx_V41_20 :
    after { (code 0x0600 [0x96, 0x10]) with x := 0xAB, y := 0xF1 }
    (fun t => (t.p, t.pc, t.cpuRam.read 0x001)) = some (0x24, 0x0602, 0xAB) := by
  decide +kernel

/-- R185, vector V41.24. -/
theorem test_sty_V41_24 :
    after { (code 0x0600 [0x8C, 0x00, 0x07]) with y := 0xBC }
    (fun t => (t.p, t.pc, t.cpuRam.read 0x700)) = some (0x24, 0x0603, 0xBC) := by
  decide +kernel

/-- R186, vector V41.28. -/
theorem test_tax_V41_28 :
    after { (code 0x0600 [0xAA]) with a := 0x00, x := 0x33 }
    (fun t => (t.x, t.p, t.pc)) = some (0x00, 0x26, 0x0601) := by
  decide +kernel

/-- R187, vector V41.29. -/
theorem test_tay_V41_29 :
    after { (code 0x0600 [0xA8]) with a := 0x01, p := 0xA6 }
    (fun t => (t.y, t.p, t.pc)) = some (0x01, 0x24, 0x0601) := by
  decide +kernel

/-- R188, vector V41.30. -/
theorem test_txa_V41_30 :
    after { (code 0x0600 [0x8A]) with x := 0xFF }
    (fun t => (t.a, t.p, t.pc)) = some (0xFF, 0xA4, 0x0601) := by
  decide +kernel

/-- R189, vector V41.31. -/
theorem test_tya_V41_31 :
    after { (code 0x0600 [0x98]) with a := 0x12, y := 0x00 }
    (fun t => (t.a, t.p, t.pc)) = some (0x00, 0x26, 0x0601) := by
  decide +kernel

/-- R190, vector V41.33. -/
theorem test_tsx_V41_33 :
    after { (code 0x0600 [0xBA]) with x := 0x44, sp := 0x00 }
    (fun t => (t.x, t.p, t.pc)) = some (0x00, 0x26, 0x0601) := by
  decide +kernel

/-- R191, vector V41.35. -/
theorem test_txs_V41_35 :
    after { (code 0x0600 [0x9A]) with x := 0x80 }
    (fun t => (t.sp, t.p, t.pc)) = some (0x80, 0x24, 0x0601) := by
  decide +kernel

/-- R200, vector V42.5. -/
theorem test_adc_V42_5 :
    after { (code 0x0600 [0x69, 0x00]) with a := 0x7F, p := 0x25 }
    (fun t => (t.a, t.p, t.pc)) = some (0x80, 0xE4, 0x0602) := by
  decide +kernel

/-- R200, vector V42.9. -/
theorem test_adc_V42_9 :
    after { (code 0x0600 [0x69, 0x99]) with a := 0x99, p := 0x2D }
    (fun t => (t.a, t.p, t.pc)) = some (0x33, 0x6D, 0x0602) := by
  decide +kernel

/-- R201, vector V42.15. -/
theorem test_sbc_V42_15 :
    after { (code 0x0600 [0xE9, 0x01]) with a := 0x80, p := 0x25 }
    (fun t => (t.a, t.p, t.pc)) = some (0x7F, 0x65, 0x0602) := by
  decide +kernel

/-- R201, vector V42.19. -/
theorem test_sbc_V42_19 :
    after { (code 0x0600 [0xE9, 0x01]) with a := 0x10, p := 0x2D }
    (fun t => (t.a, t.p, t.pc)) = some (0x0F, 0x2D, 0x0602) := by
  decide +kernel

/-- R202, vector V42.23. -/
theorem test_and_V42_23 :
    after { (code 0x0600 [0x3D, 0x00, 0x02] |> cells [(0x201, 0x7E)]) with a := 0xFF, x := 0x01 }
    (fun t => (t.a, t.p, t.pc)) = some (0x7E, 0x24, 0x0603) := by
  decide +kernel

/-- R203, vector V42.26. -/
theorem test_ora_V42_26 :
    after { (code 0x0600 [0x11, 0x10] |> cells [(0x010, 0x00), (0x011, 0x02), (0x201, 0x30)]) with a := 0x0F, y := 0x01 }
    (fun t => (t.a, t.p, t.pc)) = some (0x3F, 0x24, 0x0602) := by
  decide +kernel

/-- R204, vector V42.28. -/
theorem test_eor_V42_28 :
    after { (code 0x0600 [0x49, 0xFF]) with a := 0x0F }
    (fun t => (t.a, t.p, t.pc)) = some (0xF0, 0xA4, 0x0602) := by
  decide +kernel

/-- R205, vector V42.30. -/
theorem test_bit_V42_30 :
    after { (code 0x0600 [0x24, 0x10] |> cells [(0x010, 0xC0)]) with a := 0x01 }
    (fun t => (t.p, t.pc)) = some (0xE6, 0x0602) := by
  decide +kernel

/-- R205, vector V42.33. -/
theorem test_bit_V42_33 :
    after { (code 0x0600 [0x2C, 0x02, 0x20]) with a := 0xFF, p := 0xE4 }
    (fun t => (t.p, t.pc)) = some (0x26, 0x0603) := by
  decide +kernel

/-- R206, vector V42.38. -/
theorem test_cmp_V42_38 :
    after { (code 0x0600 [0xC9, 0xFF]) with a := 0x00, p := 0x65 }
    (fun t => (t.p, t.pc)) = some (0x64, 0x0602) := by
  decide +kernel

/-- R206, vector V42.39. -/
theorem test_cmp_V42_39 :
    after { (code 0x0600 [0xC5, 0x10] |> cells [(0x010, 0x80)]) with a := 0x7F }
    (fun t => (t.p, t.pc)) = some (0xA4, 0x0602) := by
  decide +kernel

/-- R207, vector V42.42. -/
theorem test_cpx_V42_42 :
    after { (code 0x0600 [0xEC, 0x00, 0x02] |> cells [(0x200, 0x01)]) with x := 0xFF }
    (fun t => (t.p, t.pc)) = some (0xA5, 0x0603) := by
  decide +kernel

/-- R208, vector V42.44. -/
theorem test_cpy_V42_44 :
    after { (code 0x0600 [0xC4, 0x10] |> cells [(0x010, 0x7F)]) with y := 0x80 }
    (fun t => (t.p, t.pc)) = some (0x25, 0x0602) := by
  decide +kernel

/-- R209, vector V42.48. -/
theorem test_inc_V42_48 :
    after { (code 0x0600 [0xF6, 0x10] |> cells [(0x008, 0x01)]) with x := 0xF8 }
    (fun t => (t.p, t.pc, t.cpuRam.read 0x008)) = some (0x24, 0x0602, 0x02) := by
  decide +kernel

/-- R209, vector V42.56. -/
theorem test_inc_V42_56 :
    fatalOf (code 0x0600 [0xEE, 0x00, 0x80]) =
    some (.busWriteViolation 0x8000) := by
  decide +kernel

/-- R210, vector V42.51. -/
theorem test_dec_V42_51 :
    after (code 0x0600 [0xC6, 0x10] |> cells [(0x010, 0x00)])
    (fun t => (t.p, t.pc, t.cpuRam.read 0x010)) = some (0xA4, 0x0602, 0xFF) := by
  decide +kernel

/-- R211, vector V42.57. -/
theorem test_inx_V42_57 :
    after { (code 0x0600 [0xE8]) with x := 0xFF }
    (fun t => (t.x, t.p, t.pc)) = some (0x00, 0x26, 0x0601) := by
  decide +kernel

/-- R212, vector V42.59. -/
theorem test_iny_V42_59 :
    after { (code 0x0600 [0xC8]) with y := 0xFF }
    (fun t => (t.y, t.p, t.pc)) = some (0x00, 0x26, 0x0601) := by
  decide +kernel

/-- R213, vector V42.61. -/
theorem test_dex_V42_61 :
    after { (code 0x0600 [0xCA]) with x := 0x00 }
    (fun t => (t.x, t.p, t.pc)) = some (0xFF, 0xA4, 0x0601) := by
  decide +kernel

/-- R214, vector V42.64. -/
theorem test_dey_V42_64 :
    after { (code 0x0600 [0x88]) with y := 0x81 }
    (fun t => (t.y, t.p, t.pc)) = some (0x80, 0xA4, 0x0601) := by
  decide +kernel

/-- R230, vector V43.2. -/
theorem test_asl_V43_2 :
    after { (code 0x0600 [0x0A]) with a := 0x41, p := 0x25 }
    (fun t => (t.a, t.p, t.pc)) = some (0x82, 0xA4, 0x0601) := by
  decide +kernel

/-- R230, vector V43.6. -/
theorem test_asl_V43_6 :
    after { (code 0x0600 [0x1E, 0x00, 0x02] |> cells [(0x201, 0xC0)]) with x := 0x01 }
    (fun t => (t.p, t.pc, t.cpuRam.read 0x201)) = some (0xA5, 0x0603, 0x80) := by
  decide +kernel

/-- R231, vector V43.8. -/
theorem test_lsr_V43_8 :
    after { (code 0x0600 [0x4A]) with a := 0xFF, p := 0xA4 }
    (fun t => (t.a, t.p, t.pc)) = some (0x7F, 0x25, 0x0601) := by
  decide +kernel

/-- R231, vector V43.12. -/
theorem test_lsr_V43_12 :
    after { (code 0x0600 [0x5E, 0x00, 0x02] |> cells [(0x201, 0x00)]) with x := 0x01, p := 0x25 }
    (fun t => (t.p, t.pc)) = some (0x26, 0x0603) := by
  decide +kernel

/-- R232, vector V43.13. -/
theorem test_rol_V43_13 :
    after { (code 0x0600 [0x2A]) with a := 0x80, p := 0x25 }
    (fun t => (t.a, t.p, t.pc)) = some (0x01, 0x25, 0x0601) := by
  decide +kernel

/-- R232, vector V43.19. -/
theorem test_rol_V43_19 :
    after { (code 0x0600 [0x3E, 0x00, 0x02] |> cells [(0x201, 0x81)]) with x := 0x01 }
    (fun t => (t.p, t.pc, t.cpuRam.read 0x201)) = some (0x25, 0x0603, 0x02) := by
  decide +kernel

/-- R233, vector V43.21. -/
theorem test_ror_V43_21 :
    after { (code 0x0600 [0x6A]) with a := 0x00, p := 0x25 }
    (fun t => (t.a, t.p, t.pc)) = some (0x80, 0xA4, 0x0601) := by
  decide +kernel

/-- R233, vector V43.26. -/
theorem test_ror_V43_26 :
    after { (code 0x0600 [0x7E, 0x00, 0x02] |> cells [(0x201, 0x55)]) with x := 0x01, p := 0x25 }
    (fun t => (t.p, t.pc, t.cpuRam.read 0x201)) = some (0xA5, 0x0603, 0xAA) := by
  decide +kernel

/-- R244, vector V44.2. -/
theorem test_pha_V44_2 :
    after { (code 0x0600 [0x48]) with a := 0x43, sp := 0x00 }
    (fun t => (t.sp, t.p, t.pc, t.cpuRam.read 0x100)) = some (0xFF, 0x24, 0x0601, 0x43) := by
  decide +kernel

/-- R245, vector V44.4. -/
theorem test_pla_V44_4 :
    after { (code 0x0600 [0x68] |> cells [(0x100, 0x80)]) with sp := 0xFF }
    (fun t => (t.a, t.sp, t.p, t.pc)) = some (0x80, 0x00, 0xA4, 0x0601) := by
  decide +kernel

/-- R246, vector V44.6. -/
theorem test_php_V44_6 :
    after { (code 0x0600 [0x08]) with sp := 0x80, p := 0xCF }
    (fun t => (t.sp, t.p, t.pc, t.cpuRam.read 0x180)) = some (0x7F, 0xCF, 0x0601, 0xFF) := by
  decide +kernel

/-- R247, vector V44.7. -/
theorem test_plp_V44_7 :
    after { (code 0x0600 [0x28] |> cells [(0x1FD, 0xFF)]) with sp := 0xFC }
    (fun t => (t.sp, t.p, t.pc)) = some (0xFD, 0xEF, 0x0601) := by
  decide +kernel

/-- R247, vector V44.9. -/
theorem test_plp_V44_9 :
    after { (code 0x0600 [0x28] |> cells [(0x1FD, 0x34)]) with sp := 0xFC, p := 0xE7 }
    (fun t => (t.sp, t.p, t.pc)) = some (0xFD, 0x24, 0x0601) := by
  decide +kernel

/-- R248, vector V44.11. -/
theorem test_jsr_V44_11 :
    after { (code 0x0600 [0x20, 0x34, 0x12]) with sp := 0x00 }
    (fun t => (t.sp, t.p, t.pc, t.cpuRam.read 0x100, t.cpuRam.read 0x1FF)) = some (0xFE, 0x24, 0x1234, 0x06, 0x02) := by
  decide +kernel

/-- R248, vector V44.12. -/
theorem test_jsr_V44_12 :
    after { (code 0x07FE [0x20, 0x00, 0x80]) with sp := 0x01 }
    (fun t => (t.sp, t.p, t.pc, t.cpuRam.read 0x101)) = some (0xFF, 0x24, 0x8000, 0x08) := by
  decide +kernel

/-- R249, vector V44.14. -/
theorem test_rts_V44_14 :
    after { (code 0x0600 [0x60] |> cells [(0x1FC, 0xFF), (0x1FD, 0xFF)]) with sp := 0xFB }
    (fun t => (t.sp, t.p, t.pc)) = some (0xFD, 0x24, 0x0000) := by
  decide +kernel

/-- R250, vector V44.16. -/
theorem test_rti_V44_16 :
    after { (code 0x0600 [0x40] |> cells [(0x1FB, 0xC3), (0x1FC, 0x34), (0x1FD, 0x12)]) with sp := 0xFA }
    (fun t => (t.sp, t.p, t.pc)) = some (0xFD, 0xE3, 0x1234) := by
  decide +kernel

/-- R261, vector V45.1. -/
theorem test_bcc_V45_1 :
    after { (code 0x0600 [0x90, 0x04]) with p := 0x24 }
    (fun t => (t.p, t.pc)) = some (0x24, 0x0606) := by
  decide +kernel

/-- R262, vector V45.3. -/
theorem test_bcs_V45_3 :
    after { (code 0x0600 [0xB0, 0xFC]) with p := 0x25 }
    (fun t => (t.p, t.pc)) = some (0x25, 0x05FE) := by
  decide +kernel

/-- R263, vector V45.6. -/
theorem test_beq_V45_6 :
    after { (code 0x0600 [0xF0, 0x10]) with p := 0x24 }
    (fun t => (t.p, t.pc)) = some (0x24, 0x0602) := by
  decide +kernel

/-- R265, vector V45.17. -/
theorem test_bne_V45_17 :
    after { (code 0x0000 [0xD0, 0x80]) with p := 0x24 }
    (fun t => (t.p, t.pc)) = some (0x24, 0xFF82) := by
  decide +kernel

/-- R265, vector V45.19. -/
theorem test_bne_V45_19 :
    after { (code 0x1FFE [0xD0, 0x10]) with p := 0x26 }
    (fun t => (t.p, t.pc)) = some (0x26, 0x2000) := by
  decide +kernel

/-- R264, vector V45.9. -/
theorem test_bmi_V45_9 :
    after { (code 0x0600 [0x30, 0x7F]) with p := 0xA4 }
    (fun t => (t.p, t.pc)) = some (0xA4, 0x0681) := by
  decide +kernel

/-- R266, vector V45.11. -/
theorem test_bpl_V45_11 :
    after { (code 0x0600 [0x10, 0x80]) with p := 0x24 }
    (fun t => (t.p, t.pc)) = some (0x24, 0x0582) := by
  decide +kernel

/-- R267, vector V45.14. -/
theorem test_bvc_V45_14 :
    after { (code 0x0600 [0x50, 0x02]) with p := 0x64 }
    (fun t => (t.p, t.pc)) = some (0x64, 0x0602) := by
  decide +kernel

/-- R268, vector V45.15. -/
theorem test_bvs_V45_15 :
    after { (code 0x0600 [0x70, 0xFE]) with p := 0x64 }
    (fun t => (t.p, t.pc)) = some (0x64, 0x0600) := by
  decide +kernel

/-- R280, vector V46.1. -/
theorem test_jmp_V46_1 :
    after (code 0x0600 [0x4C, 0x34, 0x12])
    (fun t => (t.p, t.pc)) = some (0x24, 0x1234) := by
  decide +kernel

/-- R281, vector V46.5. -/
theorem test_jmpInd_V46_5 :
    after (code 0x0600 [0x6C, 0xFF, 0x00] |> cells [(0x000, 0xAB), (0x0FF, 0xCD), (0x100, 0x99)])
    (fun t => (t.p, t.pc)) = some (0x24, 0xABCD) := by
  decide +kernel

/-- R281, vector V46.7. -/
theorem test_jmpInd_V46_7 :
    fatalOf (code 0x0600 [0x6C, 0x02, 0x20]) =
    some (.busReadViolation 0x2003) := by
  decide +kernel

/-- R282, vector V46.8. -/
theorem test_clc_V46_8 :
    after { (code 0x0600 [0x18]) with p := 0xE7 }
    (fun t => (t.p, t.pc)) = some (0xE6, 0x0601) := by
  decide +kernel

/-- R283, vector V46.9. -/
theorem test_sec_V46_9 :
    after (code 0x0600 [0x38])
    (fun t => (t.p, t.pc)) = some (0x25, 0x0601) := by
  decide +kernel

/-- R284, vector V46.10. -/
theorem test_cli_V46_10 :
    after (code 0x0600 [0x58])
    (fun t => (t.p, t.pc)) = some (0x20, 0x0601) := by
  decide +kernel

/-- R285, vector V46.11. -/
theorem test_sei_V46_11 :
    after { (code 0x0600 [0x78]) with p := 0x20 }
    (fun t => (t.p, t.pc)) = some (0x24, 0x0601) := by
  decide +kernel

/-- R286, vector V46.12. -/
theorem test_cld_V46_12 :
    after { (code 0x0600 [0xD8]) with p := 0x2C }
    (fun t => (t.p, t.pc)) = some (0x24, 0x0601) := by
  decide +kernel

/-- R287, vector V46.13. -/
theorem test_sed_V46_13 :
    after (code 0x0600 [0xF8])
    (fun t => (t.p, t.pc)) = some (0x2C, 0x0601) := by
  decide +kernel

/-- R288, vector V46.14. -/
theorem test_clv_V46_14 :
    after { (code 0x0600 [0xB8]) with p := 0xE4 }
    (fun t => (t.p, t.pc)) = some (0xA4, 0x0601) := by
  decide +kernel

/-- R289, vector V46.15. -/
theorem test_nop_V46_15 :
    after { (code 0x0600 [0xEA]) with a := 0x01, x := 0x02, y := 0x03, p := 0xE7 }
    (fun t => (t.p, t.pc)) = some (0xE7, 0x0601) := by
  decide +kernel

/-- R290, vector V46.17. -/
theorem test_brk_V46_17 :
    after (code 0xFFFF [0x00])
    (fun t => (t.p, t.pc, t.run)) = some (0x24, 0x0000, .halted) := by
  decide +kernel

/-- R300, vector V47.1. -/
theorem test_nopIllegal_V47_1 :
    after { (code 0x0600 [0x1A]) with a := 0x01, p := 0xE7 }
    (fun t => (t.p, t.pc)) = some (0xE7, 0x0601) := by
  decide +kernel

/-- R301, vector V47.4. -/
theorem test_skb_V47_4 :
    after { (code 0x0600 [0x89, 0x00]) with a := 0xFF }
    (fun t => (t.p, t.pc)) = some (0x24, 0x0602) := by
  decide +kernel

/-- R302, vector V47.7. -/
theorem test_ign_V47_7 :
    after { (code 0x0600 [0x0C, 0x07, 0x20]) with ppu := { State.reset.ppu with addr := 0x2000, vram := [(0x000, 0x99)] } }
    (fun t => (t.p, t.pc, t.ppu.addr, t.ppu.readBuffer)) = some (0x24, 0x0603, 0x2001, 0x99) := by
  decide +kernel

/-- R302, vector V47.8. -/
theorem test_ign_V47_8 :
    fatalOf (code 0x0600 [0x0C, 0x00, 0x20]) =
    some (.busReadViolation 0x2000) := by
  decide +kernel

/-- R303, vector V47.11. -/
theorem test_lax_V47_11 :
    after { (code 0x0600 [0xB7, 0x10] |> cells [(0x001, 0x00)]) with a := 0x05, x := 0x06, y := 0xF1 }
    (fun t => (t.a, t.x, t.p, t.pc)) = some (0x00, 0x00, 0x26, 0x0602) := by
  decide +kernel

/-- R304, vector V47.16. -/
theorem test_sax_V47_16 :
    after { (code 0x0600 [0x87, 0x10]) with a := 0xF0, x := 0x3C }
    (fun t => (t.p, t.pc, t.cpuRam.read 0x010)) = some (0x24, 0x0602, 0x30) := by
  decide +kernel

/-- R305, vector V47.27. -/
theorem test_dcp_V47_27 :
    after { (code 0x0600 [0xD3, 0x10] |> cells [(0x010, 0x00), (0x011, 0x02), (0x201, 0x03)]) with a := 0x01, y := 0x01 }
    (fun t => (t.p, t.pc, t.cpuRam.read 0x201)) = some (0xA4, 0x0602, 0x02) := by
  decide +kernel

/-- R306, vector V47.34. -/
theorem test_isc_V47_34 :
    after { (code 0x0600 [0xE3, 0x10] |> cells [(0x010, 0x00), (0x011, 0x02), (0x200, 0x02)]) with a := 0x05, x := 0x00, p := 0x2D }
    (fun t => (t.a, t.p, t.pc, t.cpuRam.read 0x200)) = some (0x02, 0x2D, 0x0602, 0x03) := by
  decide +kernel

/-- R307, vector V47.36. -/
theorem test_anc_V47_36 :
    after { (code 0x0600 [0x0B, 0x80]) with a := 0xFF }
    (fun t => (t.a, t.p, t.pc)) = some (0x80, 0xA5, 0x0602) := by
  decide +kernel

/-- R308, vector V47.41. -/
theorem test_alr_V47_41 :
    after { (code 0x0600 [0x4B, 0xFE]) with a := 0xFF, p := 0xA5 }
    (fun t => (t.a, t.p, t.pc)) = some (0x7F, 0x24, 0x0602) := by
  decide +kernel

/-- R309, vector V47.43. -/
theorem test_arr_V47_43 :
    after { (code 0x0600 [0x6B, 0x80]) with a := 0xFF, p := 0x24 }
    (fun t => (t.a, t.p, t.pc)) = some (0x40, 0x65, 0x0602) := by
  decide +kernel

/-- R309, vector V47.46. -/
theorem test_arr_V47_46 :
    after { (code 0x0600 [0x6B, 0xC0]) with a := 0xFF, p := 0x65 }
    (fun t => (t.a, t.p, t.pc)) = some (0xE0, 0xA5, 0x0602) := by
  decide +kernel

/-- R310, vector V47.47. -/
theorem test_axs_V47_47 :
    after { (code 0x0600 [0xCB, 0x31]) with a := 0xF0, x := 0x3C }
    (fun t => (t.x, t.p, t.pc)) = some (0xFF, 0xA4, 0x0602) := by
  decide +kernel

/-- R310, vector V47.49. -/
theorem test_axs_V47_49 :
    after { (code 0x0600 [0xCB, 0x01]) with a := 0xFF, x := 0x81 }
    (fun t => (t.x, t.p, t.pc)) = some (0x80, 0xA5, 0x0602) := by
  decide +kernel

/-- R311, vector V47.51. -/
theorem test_sbcAlias_V47_51 :
    after { (code 0x0600 [0xEB, 0x01]) with a := 0x80, p := 0x25 }
    (fun t => (t.a, t.p, t.pc)) = some (0x7F, 0x65, 0x0602) := by
  decide +kernel

/-- R312, vector V47.53. -/
theorem test_las_V47_53 :
    after { (code 0x0600 [0xBB, 0x00, 0x02] |> cells [(0x201, 0x8F)]) with y := 0x01, sp := 0xF0 }
    (fun t => (t.a, t.x, t.sp, t.p, t.pc)) = some (0x80, 0x80, 0x80, 0xA4, 0x0603) := by
  decide +kernel

/-- R313, vector V47.56. -/
theorem test_ahx_V47_56 :
    after { (code 0x0600 [0x9F, 0xFF, 0x02]) with a := 0xFF, x := 0xFF, y := 0x01 }
    (fun t => (t.p, t.pc, t.cpuRam.read 0x300)) = some (0x24, 0x0603, 0x04) := by
  decide +kernel

/-- R313, vector V47.57. -/
theorem test_ahx_V47_57 :
    after { (code 0x0600 [0x93, 0x10] |> cells [(0x010, 0x00), (0x011, 0x05)]) with a := 0x0F, x := 0x07, y := 0x01 }
    (fun t => (t.p, t.pc, t.cpuRam.read 0x501)) = some (0x24, 0x0602, 0x06) := by
  decide +kernel

/-- R314, vector V47.58. -/
theorem test_shx_V47_58 :
    after { (code 0x0600 [0x9E, 0x00, 0x05]) with x := 0xFF, y := 0x10 }
    (fun t => (t.p, t.pc, t.cpuRam.read 0x510)) = some (0x24, 0x0603, 0x06) := by
  decide +kernel

/-- R315, vector V47.60. -/
theorem test_shy_V47_60 :
    after { (code 0x0600 [0x9C, 0x80, 0x07]) with x := 0x00, y := 0xFF }
    (fun t => (t.p, t.pc, t.cpuRam.read 0x780)) = some (0x24, 0x0603, 0x08) := by
  decide +kernel

/-- R316, vector V47.61. -/
theorem test_tas_V47_61 :
    after { (code 0x0600 [0x9B, 0x00, 0x02]) with a := 0xF3, x := 0x3F, y := 0x00 }
    (fun t => (t.sp, t.p, t.pc, t.cpuRam.read 0x200)) = some (0x33, 0x24, 0x0603, 0x03) := by
  decide +kernel

/-- R317, vector V47.64. -/
theorem test_kil_V47_64 :
    fatalOf (code 0x8000 [0xF2]) =
    some (.kil 0xF2 0x8000) := by
  decide +kernel

/-- R125, vector V40.26. -/
theorem test_unknown_V40_26 :
    fatalOf (code 0x0600 [0x03]) =
    some (.unknownOpcode 0x03 0x0600) := by
  decide +kernel

/-! ### Bus vectors of spec/96_derived_vectors.md -/

/-- Vector B.6: RAM mirrors. -/
theorem test_bus_B_6 :
    (busWrite 0x0000 0x11 State.reset).map (fun t => (ramRead 0x1800 t, t.cpuRam)) =
      .ok (0x11, [(0, 0x11)]) ∧
    (busWrite 0x1FFF 0x22 State.reset).map (fun t => (ramRead 0x07FF t, t.cpuRam)) =
      .ok (0x22, [(0x7FF, 0x22)]) := by
  decide +kernel

/-- Vectors B.34 and B.41: the buffered read at the end of CHR, and the write at the end of the palette. -/
theorem test_bus_B_34_B_41 :
    (busRead 0x2007 { port 0x1FFF with cart := { State.reset.cart with chr := [(0x1FFF, 0xEE)] } }).map
      (fun r => (r.1, r.2.ppu.addr, r.2.ppu.readBuffer)) = .ok (0x00, 0x2000, 0xEE) ∧
    (busWrite 0x2007 0x0B (port 0x3FFF)).map (fun t => (t.ppu.addr, t.ppu.palette)) =
      .ok (0x4000, [(0x1F, 0x0B)]) := by
  decide +kernel

/-! ### Witnesses: hypotheses of the statements, met together -/

/-- DecodeOfEncodeIsTheInstruction, NothingRefusedAndResolveNoneUnreachable: well-formed instructions, each shape of
operand and of carried byte among them. -/
theorem witness_wf :
    [Instr.lda (.imm 0xFF), .lda (.indx 0), .ldx (.zpy 0xFF), .ldy (.absx 0xFFFF), .sta (.indy 1),
      .stx (.zp 1), .sty (.zpx 1), .bit (.abs 1), .cpx (.imm 1), .inc (.absx 1), .ror .acc,
      .lax (.absy 1), .sax (.indx 1), .dcp (.absy 1), .ahx (.indy 1), .nopIllegal 0xFA, .skb 0x89 1,
      .ign 0xFC (.absx 1), .ign 0x64 (.zp 1), .anc 0x0B 1, .kil 0xF2, .unknown 0x8B, .brk,
      .jmpInd 0xFFFF, .bcc 0x80].all Instr.wf = true := by
  decide

/-- EncodeOfDecodeIsTheBytes. -/
theorem witness_decode_ok :
    decode [0x9F, 0x34, 0x12, 0xFF] = .ok (.ahx (.absy 0x1234), [0xFF]) ∧
    decode [0x03] = .ok (.unknown 0x03, []) := by
  decide +kernel

/-- StepRunsDecodedInstruction: in RAM, and over the wrap from $FFFF to $0000. -/
theorem witness_decoded_at_pc :
    (code 0x0600 [0xA9, 0x42]).run = .running ∧ (code 0x0600 [0xA9, 0x42]).host = .identity ∧
    (Instr.lda (.imm 0x42)).wf = true ∧
    (∀ k b, (encode (.lda (.imm 0x42)))[k]? = some b →
      peek ((code 0x0600 [0xA9, 0x42]).pc + BitVec.ofNat 16 k) (code 0x0600 [0xA9, 0x42]) = some b) ∧
    (∀ k b, (encode (.lda (.imm 0x42)))[k]? = some b →
      peek ((code 0xFFFF [0xA9, 0x42]).pc + BitVec.ofNat 16 k) (code 0xFFFF [0xA9, 0x42]) = some b) := by
  refine ⟨by decide +kernel, by decide +kernel, by decide, ?_, ?_⟩
  all_goals
    intro k b h
    match k with
    | 0 => cases h; decide +kernel
    | 1 => cases h; decide +kernel
    | n + 2 => exact absurd h (by simp [encode, Instr.opcode, Instr.operandBytes, Operand.pick, Operand.bytes])

/-- StepIsHostThenFetchThenExec: callbacks that end in an error, that go on to a completed fetch, and that go on
to a fetch that ends in an error. -/
theorem witness_host_callback :
    runHostActs [.busRead 0x5000] State.reset = .error (.busReadViolation 0x5000) ∧
    runHostActs [.setA 0x05, .setPc 0x0700] State.reset =
      .ok { State.reset with a := 0x05, pc := 0x0700 } ∧
    fetch { State.reset with pc := 0x0700 } = .ok (.brk, { State.reset with pc := 0x0700 }) ∧
    fetch { State.reset with pc := 0x4016 } = .error (.busReadViolation 0x4016) ∧
    busRead 0xFFFD State.reset = .ok (0x06, State.reset) := by
  decide +kernel

/-- StepIsHostThenFetchThenExec: the three forms of the callback, and the call each makes next. -/
theorem witness_callback_forms :
    hostCall State.reset = [] ∧
    hostCall { State.reset with host := .listed [[.setA 1], [.reset]] } = [.setA 1] ∧
    (Callback.listed [[.setA 1], [.reset]]).next = .listed [[.reset]] ∧
    hostCall { State.reset with host := .free 7 } =
      Config.hostCall 7 { State.reset with host := .free 7 } ∧
    (Callback.free 7).next = .free 8 ∧
    runHostActs [.setOam 0xFF 0x12, .setRun (.fatal (.busReadViolation 0x5000))] State.reset =
      .error (.busReadViolation 0x5000) ∧
    (runHostActs [.setOam 0xFF 0x12, .setPalette 0x10 0x34] State.reset).map
      (fun t => (t.ppu.oam, t.ppu.palette)) = .ok ([(0xFF, 0x12)], [(0x10, 0x34)]) := by
  exact ⟨rfl, rfl, rfl, rfl, rfl, by decide +kernel, by decide +kernel⟩

/-- EveryHostFunctionIsACallback: a function that the premises admit, which reads the state it changes. -/
theorem witness_host_function :
    ∀ s : State, ramWf s = true →
      ramWf { s with x := s.a + s.y, ppu := { s.ppu with mask := s.p } } = true := by
  exact fun _ h => h

/-- StepIsHostThenFetchThenExec, with the identity and PC in the PPU window: a fetch that ends in an error, a status
read that is a BRK, and a data-port read at $2007 that is a BRK, moves `ppu_addr` on (R151). -/
theorem witness_fetch_in_window :
    State.reset.run = .running ∧ State.reset.host = .identity ∧
    fetch { State.reset with pc := 0x2000 } = .error (.busReadViolation 0x2000) ∧
    fetch { State.reset with pc := 0x2002 } = .ok (.brk, { State.reset with pc := 0x2002 }) ∧
    (fetch { port 0x2000 with pc := 0x2007 }).map (fun r => (r.1, r.2.pc, r.2.ppu.addr)) =
      .ok (.brk, 0x2007, 0x2001) := by
  decide +kernel

/-- NoStepIsTakenOutsideRunning. -/
theorem witness_not_running :
    step { State.reset with run := .halted } = .next { State.reset with run := .halted } ∧
    step { State.reset with run := .fatal (.kil 0x02 0x0600) } = .fault (.kil 0x02 0x0600) := by
  and_intros
  all_goals first
    | exact eq_next (by decide +kernel)
    | exact eq_fault (by decide +kernel)

/-- OnlyBrkStopsTheRun and every statement whose hypothesis is a completed instruction. -/
theorem witness_exec_next :
    exec .brk State.reset = .next { State.reset with pc := 0x0601, run := .halted } ∧
    exec (.lda (.imm 0x80)) State.reset = .next { State.reset with a := 0x80, p := 0xA4, pc := 0x0602 } ∧
    exec (.sta (.abs 0x1FFF)) { State.reset with a := 0x80 } =
      .next { State.reset with a := 0x80, pc := 0x0603, cpuRam := [(0x7FF, 0x80)] } := by
  and_intros
  all_goals exact eq_next (by decide +kernel)

/-- FetchFatalsEndTheStep: the opcode, the first and the second operand byte at the end of storage. -/
theorem witness_fetch_fatals :
    busRead 0x4020 State.reset = .error (.busReadViolation 0x4020) ∧
    (busRead 0x1FFF (code 0x1FFF [0xA9]) = .ok (0xA9, code 0x1FFF [0xA9]) ∧
      1 ≤ operandReads (instrAt 0xA9 0 0) (code 0x1FFF [0xA9]).p ∧
      busRead (0x1FFF + 1) (code 0x1FFF [0xA9]) = .error (.busReadViolation 0x2000)) ∧
    (busRead 0x1FFE (code 0x1FFE [0x4C, 0x01]) = .ok (0x4C, code 0x1FFE [0x4C, 0x01]) ∧
      2 ≤ operandReads (instrAt 0x4C 0 0) (code 0x1FFE [0x4C, 0x01]).p ∧
      busRead (0x1FFE + 1) (code 0x1FFE [0x4C, 0x01]) = .ok (0x01, code 0x1FFE [0x4C, 0x01]) ∧
      busRead (0x1FFE + 2) (code 0x1FFE [0x4C, 0x01]) = .error (.busReadViolation 0x2000)) := by
  decide +kernel

/-- UnreadOperandByteIsSkipped: each branch with its condition false and SKB, the operand byte at a write-only
register. -/
theorem witness_unread_operand :
    after { code 0x1FFF [0x90] with p := 0x25 } (·.pc) = some 0x2001 ∧
    after { code 0x1FFF [0xB0] with p := 0x24 } (·.pc) = some 0x2001 ∧
    after { code 0x1FFF [0xF0] with p := 0x24 } (·.pc) = some 0x2001 ∧
    after { code 0x1FFF [0xD0] with p := 0x26 } (·.pc) = some 0x2001 ∧
    after { code 0x1FFF [0x30] with p := 0x24 } (·.pc) = some 0x2001 ∧
    after { code 0x1FFF [0x10] with p := 0xA4 } (·.pc) = some 0x2001 ∧
    after { code 0x1FFF [0x50] with p := 0x64 } (·.pc) = some 0x2001 ∧
    after { code 0x1FFF [0x70] with p := 0x24 } (·.pc) = some 0x2001 ∧
    after (code 0x1FFF [0xC2]) (·.pc) = some 0x2001 := by
  decide +kernel

/-- UnassignedAndKilBytesAreFatal. -/
theorem witness_unassigned_and_kil :
    busRead 0x0600 (code 0x0600 [0x8B]) = .ok (0x8B, code 0x0600 [0x8B]) ∧ 0x8B ∈ unassignedBytes ∧
    busRead 0x0600 (code 0x0600 [0x92]) = .ok (0x92, code 0x0600 [0x92]) ∧ 0x92 ∈ kilBytes := by
  decide +kernel

/-- RamCellThroughItsMirrors: both ends of the range, and two addresses of one cell. -/
theorem witness_ram_range :
    (0x0000 : Addr) ≤ 0x1FFF ∧ (0x1FFF : Addr) ≤ 0x1FFF ∧ State.reset.cpuRam.wf = true ∧
    (busWrite 0x07FF 0x22 State.reset).map (fun t => (ramRead 0x1FFF t, ramRead 0x1FFE t)) =
      .ok (0x22, 0x00) := by
  decide +kernel

/-- BusReadCompletesExactlyWhere: the ends of each readable and each unreadable range. -/
theorem witness_readable :
    (Readable 0x0000 State.reset ∧ Readable 0x1FFF State.reset ∧ Readable 0x8000 State.reset ∧
      Readable 0xFFFF State.reset ∧ Readable 0x2002 State.reset ∧ Readable 0x3FFA State.reset ∧
      Readable 0x2007 (port 0x1FFF) ∧ Readable 0x3FFF (port 0x3F00)) ∧
    (¬ Readable 0x2000 State.reset ∧ ¬ IsDataPort 0x2000) ∧
    (¬ Readable 0x4000 State.reset ∧ ¬ IsDataPort 0x4000) ∧
    (¬ Readable 0x7FFF State.reset ∧ ¬ IsDataPort 0x7FFF) ∧
    ¬ Readable 0x2007 (port 0x3000) := by
  unfold Readable IsDataPort InPpu PortReadable PortCell
  and_intros <;> decide +kernel

/-- BusWriteCompletesExactlyWhere: the ends of each writable and each unwritable range. -/
theorem witness_writable :
    (Writable 0x0000 State.reset ∧ Writable 0x1FFF State.reset ∧ Writable 0x2000 State.reset ∧
      Writable 0x3FFE State.reset ∧ Writable 0x2007 (port 0x2FFF) ∧ Writable 0x3FFF (port 0x3FFF) ∧
      Writable 0x2007 (mirrored .fourScreen (port 0x27FF))) ∧
    (¬ Writable 0x2002 State.reset ∧ ¬ IsDataPort 0x2002) ∧
    (¬ Writable 0x4014 State.reset ∧ ¬ IsDataPort 0x4014) ∧
    (¬ Writable 0x8000 State.reset ∧ ¬ IsDataPort 0x8000) ∧
    (¬ Writable 0xFFFF State.reset ∧ ¬ IsDataPort 0xFFFF) ∧
    ¬ Writable 0x2007 (mirrored .fourScreen (port 0x2800)) := by
  unfold Writable IsDataPort InPpu PortCell
  and_intros <;> decide +kernel

/-- CtrlMaskStatusScrollAccess, OamPortsAndUnmappedAreFatal, AddrRegisterIsTwoWritesHighFirst: a window address of each
register, at both ends of the window, and both values of each latch. -/
theorem witness_ppu_window :
    (InPpu 0x2000 ∧ (0x2000 : Addr) &&& 0x2007 = 0x2000) ∧ (InPpu 0x3FF8 ∧ (0x3FF8 : Addr) &&& 0x2007 = 0x2000) ∧
    (InPpu 0x2001 ∧ (0x2001 : Addr) &&& 0x2007 = 0x2001) ∧ (InPpu 0x3FFA ∧ (0x3FFA : Addr) &&& 0x2007 = 0x2002) ∧
    (InPpu 0x2003 ∧ (0x2003 : Addr) &&& 0x2007 = 0x2003) ∧ (InPpu 0x3FFC ∧ (0x3FFC : Addr) &&& 0x2007 = 0x2004) ∧
    (InPpu 0x2005 ∧ (0x2005 : Addr) &&& 0x2007 = 0x2005) ∧ (InPpu 0x3FFE ∧ (0x3FFE : Addr) &&& 0x2007 = 0x2006) ∧
    (InPpu 0x3FFF ∧ (0x3FFF : Addr) &&& 0x2007 = 0x2007) ∧
    ((0x4000 : Addr) ≤ 0x4000 ∧ (0x4000 : Addr) ≤ 0x7FFF ∧ (0x7FFF : Addr) ≤ 0x7FFF) ∧
    State.reset.ppu.scrollLatch = .x ∧ State.reset.ppu.addrLatch = .hi ∧
    (busWrite 0x2005 0x12 State.reset).map (·.ppu.scrollLatch) = .ok .y ∧
    (busWrite 0x2006 0x21 State.reset).map (·.ppu.addrLatch) = .ok .lo ∧
    busRead 0x3FF8 State.reset = .error (.busReadViolation 0x3FF8) ∧
    busWrite 0x3FFA 0x00 State.reset = .error (.busWriteViolation 0x3FFA) := by
  unfold InPpu
  and_intros <;> decide +kernel

/-- DataPortReadByRange: both ends of each range, with and without a CHR byte, below and above the backed nametables. -/
theorem witness_port_reads :
    IsDataPort 0x2007 ∧ IsDataPort 0x3FFF ∧ ¬ IsDataPort 0x2002 ∧
    (0x1FFF : Addr).toNat < 8192 * State.reset.cart.chrBanks ∧
    busRead 0x2007 { port 0x1FFF with cart := { State.reset.cart with chrBanks := 0 } } =
      .error (.ppuChrOutOfRange 0x1FFF) ∧
    mirrorVramAddr .horizontal 0x2000 = some 0 ∧ mirrorVramAddr .horizontal 0x2FFF = some 0x7FF ∧
    mirrorVramAddr .fourScreen 0x27FF = some 0x7FF ∧ mirrorVramAddr .fourScreen 0x2800 = some 0x800 ∧
    busRead 0x2007 (mirrored .fourScreen (port 0x2800)) = .error (.ppuVramIndexOutOfRange 0x2800) ∧
    (busRead 0x2007 (port 0x2FFF)).map (·.2.ppu.addr) = .ok 0x3000 ∧
    busRead 0x2007 (port 0x3000) = .error (.ppuUnusedRange 0x3000) ∧
    busRead 0x2007 (port 0x3EFF) = .error (.ppuUnusedRange 0x3EFF) ∧
    (busRead 0x2007 (port 0x3F00)).map (·.2.ppu.addr) = .ok 0x3F01 ∧
    (busRead 0x2007 (port 0x3FFF)).map (·.2.ppu.addr) = .ok 0x4000 ∧
    busRead 0x2007 (port 0x4000) = .error (.ppuAddrOutOfRange 0x4000) := by
  unfold IsDataPort InPpu
  and_intros <;> decide +kernel

/-- DataPortWriteByRange: both ends of each range. -/
theorem witness_port_writes :
    busWrite 0x2007 0x01 (port 0x0000) = .error (.ppuChrWrite 0x0000) ∧
    busWrite 0x2007 0x01 (port 0x1FFF) = .error (.ppuChrWrite 0x1FFF) ∧
    (busWrite 0x2007 0x01 (port 0x2000)).map (·.ppu.vram) = .ok [(0, 0x01)] ∧
    (busWrite 0x2007 0x01 (port 0x2FFF)).map (·.ppu.vram) = .ok [(0x7FF, 0x01)] ∧
    busWrite 0x2007 0x01 (mirrored .fourScreen (port 0x2800)) =
      .error (.ppuVramIndexOutOfRange 0x2800) ∧
    busWrite 0x2007 0x01 (port 0x3000) = .error (.ppuUnusedRange 0x3000) ∧
    busWrite 0x2007 0x01 (port 0x3EFF) = .error (.ppuUnusedRange 0x3EFF) ∧
    (busWrite 0x2007 0x01 (port 0x3F00)).map (·.ppu.palette) = .ok [(0, 0x01)] ∧
    (busWrite 0x2007 0x01 (port 0x3FFF)).map (·.ppu.palette) = .ok [(0x1F, 0x01)] ∧
    busWrite 0x2007 0x01 (port 0x4000) = .error (.ppuAddrOutOfRange 0x4000) := by
  decide +kernel

/-- PaletteAliasesShareACell (vector B.45): a write at $3F14 is read at $3F04. -/
theorem witness_palette_alias :
    IsDataPort 0x2007 ∧ (port 0x3F14).ppu.palette.wf = true ∧ palIndex 0x3F14 = palIndex 0x3F04 ∧
    palIndex 0x3F00 = 0 ∧ palIndex 0x3F10 = 0 ∧ palIndex 0x3FFF = 0x1F ∧
    (busWrite 0x2007 0x21 (port 0x3F14)).map (·.ppu.palette) = .ok [(0x04, 0x21)] := by
  unfold IsDataPort InPpu
  and_intros <;> decide +kernel

/-- NametableMirroring: both ends of each range, and a mirroring that is not FourScreen. -/
theorem witness_mirroring :
    mirrorVramAddr .vertical 0x2FFF = some 0x7FF ∧ mirrorVramAddr .vertical 0x3000 = some 0 ∧
    mirrorVramAddr .horizontal 0x3EFF = some 0x6FF ∧ Mirroring.horizontal ≠ .fourScreen ∧
    vramIndex .fourScreen 0x2FFF = .error (.ppuVramIndexOutOfRange 0x2FFF) := by
  decide +kernel

/-- PrgRomIsReadOnlyAndMirrored: one and two banks, at both ends and at the mirror. -/
theorem witness_prg :
    State.reset.cart.prgBanks = .one ∧
    busRead 0xBFFD State.reset = .ok (0x06, State.reset) ∧
    busRead 0xFFFD State.reset = .ok (0x06, State.reset) ∧
    busWrite 0xFFFF 0x01 State.reset = .error (.busWriteViolation 0xFFFF) ∧
    (busRead 0x8000 { State.reset with
      cart := { Config.defaultCartridge with prgBanks := .two, prg := [(0, 0x6B)] } }).map (·.1) = .ok 0x6B := by
  decide +kernel

/-- WordReadIsTwoByteReads: both bytes read over the wrap of the address, each of the two failing, a word written,
each of its two bytes failing. -/
theorem witness_word_access :
    busRead 0xFFFF State.reset = .ok (0x00, State.reset) ∧
    busRead (0xFFFF + 1) State.reset = .ok (0x00, State.reset) ∧
    busReadWord 0x7FFF State.reset = .error (.busReadViolation 0x7FFF) ∧
    busReadWord 0x1FFF State.reset = .error (.busReadViolation 0x2000) ∧
    (busWriteWord 0x1FFF 0x1234 State.reset).map (fun t => (t.cpuRam, t.ppu.ctrl)) =
      .ok ([(0x7FF, 0x34)], 0x12) ∧
    busWriteWord 0x2002 0x1234 State.reset = .error (.busWriteViolation 0x2002) := by
  decide +kernel

/-- HostResetSetsCpuRegistersOnly: from Running and from Halted. -/
theorem witness_host_reset :
    hostReset State.reset = .next State.reset ∧
    hostReset { State.reset with run := .halted, a := 0x12, p := 0xFF } = .next State.reset := by
  and_intros
  all_goals exact eq_next (by decide +kernel)

/-- StepKeepsStateCanonical, StepKeepsBreakBits, StepNeverWritesRomOamOrAliasCells: a state that meets the invariants
and takes a step that stores. -/
theorem witness_invariants :
    stateWf (code 0x0600 [0x48]) = true ∧ breakBits (code 0x0600 [0x48]).p = true ∧
    hostKeepsP (code 0x0600 [0x48]) ∧
    hostKeepsP { State.reset with host := .listed [[.setA 1, .setOam 0xFF 1], [.reset]] } ∧
    HostAct.setOam 0x00 1 ∉ hostCall State.reset ∧
    after { code 0x0600 [0x48] with a := 0x42 } (fun t => (t.sp, t.cpuRam.read 0x1FD)) =
      some (0xFC, 0x42) := by
  exact ⟨by decide +kernel, by decide +kernel, rfl, rfl, by decide, by decide +kernel⟩

/-- EveryWriteOfAXYSetsZN: a register in the list. -/
theorem witness_writes_list :
    Reg.a ∈ writesReg (.lda (.imm 0x80)) ∧ Reg.a ≠ Reg.sp ∧ Reg.x ∉ writesReg (.lda (.imm 0x80)) ∧
    Flag.c ∉ writesFlag (.lda (.imm 0x80)) := by
  decide

/-- InterruptAndDecimalFlagsAreInert: two status bytes that differ in I and D alone, each kind of outcome. -/
theorem witness_inert :
    Instr.adc (.imm 0x01) ≠ .php ∧
    (∀ f, f ≠ .i → f ≠ .d → flag 0x28 f = flag State.reset.p f) ∧
    exec (.adc (.imm 0x01)) { State.reset with p := 0x28 } =
      .next { State.reset with a := 0x01, p := 0x28, pc := 0x0602 } ∧
    exec (.kil 0x02) State.reset = .fault (.kil 0x02 0x0600) := by
  refine ⟨by decide, fun f h1 h2 => ?_, eq_next (by decide +kernel), eq_fault (by decide +kernel)⟩
  cases f <;> first | exact absurd rfl h1 | exact absurd rfl h2 | decide

/-- EffectiveAddresses: an operand that is not immediate, and its address. -/
theorem witness_resolve :
    (∀ b, Operand.indy 0xFF ≠ .imm b) ∧
    resolve (.indy 0xFF) { State.reset with y := 0x01, cpuRam := [(0x000, 0x02), (0x0FF, 0x40)] } =
      .ok 0x0241 := by
  exact ⟨fun b h => (by cases h), by decide +kernel⟩

/-- The statements over OperandReadable: an immediate, a RAM operand, a status read and a data-port read. -/
theorem witness_operand_readable :
    OperandReadable (.imm 0x12) State.reset ∧ OperandReadable (.indy 0xFF) State.reset ∧
    OperandReadable (.abs 0x2002) State.reset ∧ OperandReadable (.abs 0x2007) (port 0x3F00) := by
  refine ⟨fun ea h _ => absurd rfl (h _), fun ea _ h => ?_, fun ea _ h => ?_, fun ea _ h => ?_⟩ <;>
    cases h <;> unfold Readable InPpu PortReadable PortCell <;> decide +kernel

/-- The statements over OperandWritable: a RAM operand and a PPU register. -/
theorem witness_operand_writable :
    OperandWritable (.zpx 0xFF) State.reset ∧ OperandWritable (.abs 0x2006) State.reset ∧
    OperandWritable (.absy 0x2007) (port 0x2000) ∧ OperandWritable (.absx 0x1FFF) State.reset := by
  refine ⟨fun ea h => ?_, fun ea h => ?_, fun ea h => ?_, fun ea h => ?_⟩ <;>
    cases h <;> unfold Writable InPpu PortCell <;> decide +kernel

/-- The statements over OperandModifiable: a RAM operand, and the data port, whose read and write cells differ. -/
theorem witness_operand_modifiable :
    OperandModifiable (.absx 0x1FFF) State.reset ∧ OperandModifiable (.abs 0x2007) (port 0x2000) ∧
    OperandModifiable (.abs 0x2007) (port 0x1FFF) ∧ Operand.zp 0x10 ≠ .acc := by
  refine ⟨fun ea h => ?_, fun ea h => ?_, fun ea h => ?_, by decide⟩ <;>
    cases h <;> unfold Modifiable IsDataPort InPpu PortReadable PortCell <;> decide +kernel

/-- OverflowFlagIsSignedOverflow: a sum, two differences and an increment that overflow (vectors V42.1 and V42.15, the
second also through the byte $EB, and V47.32 in the zero page). -/
theorem witness_overflow :
    OperandReadable (.imm 0x50) { State.reset with a := 0x50 } ∧
    exec (.adc (.imm 0x50)) { State.reset with a := 0x50 } =
      .next { State.reset with a := 0xA0, p := 0xE4, pc := 0x0602 } ∧
    exec (.sbc (.imm 0x01)) { State.reset with a := 0x80, p := 0x25 } =
      .next { State.reset with a := 0x7F, p := 0x65, pc := 0x0602 } ∧
    exec (.sbcAlias 0x01) { State.reset with a := 0x80, p := 0x25 } =
      .next { State.reset with a := 0x7F, p := 0x65, pc := 0x0602 } ∧
    OperandModifiable (.zp 0x10) (cells [(0x010, 0xAF)] { State.reset with a := 0x50, p := 0x25 }) ∧
    exec (.isc (.zp 0x10)) (cells [(0x010, 0xAF)] { State.reset with a := 0x50, p := 0x25 }) =
      .next { State.reset with a := 0xA0, p := 0xE4, pc := 0x0602, cpuRam := [(0x010, 0xB0)] } := by
  refine ⟨fun ea h _ => absurd rfl (h _), eq_next (by decide +kernel), eq_next (by decide +kernel),
    eq_next (by decide +kernel), fun ea h => ?_, eq_next (by decide +kernel)⟩
  cases h
  exact .inl (by decide)

/-- JumpsLoadPc: a pointer at the end of a page and of RAM, and one that crosses into the next byte. -/
theorem witness_jump_pointer :
    ((0x1FFF : Addr) &&& 0x00FF = 0x00FF ∧ Readable 0x1FFF State.reset ∧ Readable 0x1F00 State.reset) ∧
    (¬ (0xFFFC : Addr) &&& 0x00FF = 0x00FF ∧ Readable 0xFFFC State.reset ∧
      Readable (0xFFFC + 1) State.reset) := by
  unfold Readable InPpu PortReadable PortCell
  and_intros <;> decide +kernel

/-- StackPairsRestore: a canonical RAM, the break bits, a completed PHP and JSR with the stack pointer at each end. -/
theorem witness_stack_pairs :
    State.reset.cpuRam.wf = true ∧ breakBits State.reset.p = true ∧
    exec .php { State.reset with sp := 0x00 } =
      .next { State.reset with sp := 0xFF, pc := 0x0601, cpuRam := [(0x100, 0x34)] } ∧
    exec (.jsr 0x1234) { State.reset with sp := 0x00 } =
      .next { State.reset with sp := 0xFE, pc := 0x1234, cpuRam := [(0x100, 0x06), (0x1FF, 0x02)] } := by
  and_intros
  all_goals first
    | exact eq_next (by decide +kernel)
    | exact eq_fault (by decide +kernel)
    | decide +kernel

/-- DataFatalsEndTheInstruction: a read, a store, the read and the write of a read-modify-write, and each pointer byte,
ending in a fatal. -/
theorem witness_data_fatals :
    readOperand (.abs 0x2000) State.reset = .error (.busReadViolation 0x2000) ∧
    (resolve (.absx 0x8000) State.reset = .ok 0x8000 ∧
      busWrite 0x8000 0x00 State.reset = .error (.busWriteViolation 0x8000) ∧
      busRead 0x8000 State.reset = .ok (0x00, State.reset)) ∧
    (resolve (.abs 0x7FFF) State.reset = .ok 0x7FFF ∧
      busRead 0x7FFF State.reset = .error (.busReadViolation 0x7FFF)) ∧
    (busRead 0x2002 State.reset = .ok (0x00, State.reset) ∧
      busRead 0x2003 State.reset = .error (.busReadViolation 0x2003)) ∧
    (resolve (.absy 0xFF00) State.reset = .ok 0xFF00 ∧
      busWrite 0xFF00 0x00 State.reset = .error (.busWriteViolation 0xFF00)) := by
  decide +kernel

/-- MemoryChangesOnlyWhereStored: an address outside the stored byte and its mirrors. -/
theorem witness_frame_memory :
    storesTo (.sta (.abs 0x1FFF)) State.reset = [0x1FFF] ∧ ¬ SameByte 0x1FFE 0x1FFF ∧
    SameByte 0x07FF 0x1FFF ∧ storesTo (.jsr 0x1234) { State.reset with sp := 0x00 } = [0x0100, 0x01FF] ∧
    storesTo (.lda (.abs 0x1FFF)) State.reset = [] := by
  unfold SameByte
  and_intros <;> decide +kernel

/-- PpuChangesOnlyThroughItsWindow: an instruction whose accesses lie outside the window, and one inside it but not
at the data port. -/
theorem witness_frame_ppu :
    (∀ a ∈ readsFrom (.lda (.abs 0x1FFF)) State.reset ++ storesTo (.lda (.abs 0x1FFF)) State.reset, ¬ InPpu a) ∧
    (∀ a ∈ readsFrom (.sta (.abs 0x2006)) State.reset ++ storesTo (.sta (.abs 0x2006)) State.reset,
      ¬ IsDataPort a) := by
  refine ⟨fun a h => ?_, fun a h => ?_⟩
  · change a ∈ [(0x1FFF : Addr)] at h
    rw [List.mem_singleton] at h
    subst h
    unfold InPpu
    decide +kernel
  · change a ∈ [(0x2006 : Addr)] at h
    rw [List.mem_singleton] at h
    subst h
    unfold IsDataPort InPpu
    decide +kernel

/-- PcAdvancesUnlessAssigned: a branch whose condition is false, and one whose condition is true. -/
theorem witness_assigns_pc :
    assignsPc (.bcs 0x10) State.reset.p = false ∧ assignsPc (.bcc 0x10) State.reset.p = true ∧
    assignsPc .nop State.reset.p = false := by
  decide

end Sys2Proof.Tests
end

section
/-! O6: a running step from its call of the host callback on, and what each effect of a call does. -/

namespace Sys2Proof.Machine

/-- The effects of the next call and the callback it leaves, for each form of the callback. -/
theorem runHost_eq {s : State} {acts : List HostAct} {later : Callback}
    (h : (s.host = .identity ∧ acts = [] ∧ later = .identity) ∨
      (∃ rest, s.host = .listed (acts :: rest) ∧ later = .listed rest) ∨
      (∃ n, s.host = .free n ∧ acts = Config.hostCall n s ∧ later = .free (n + 1))) :
    runHost s = runHostActs acts { s with host := later } := by
  rcases h with ⟨hhost, rfl, rfl⟩ | ⟨rest, hhost, rfl⟩ | ⟨n, hhost, rfl, rfl⟩
  all_goals simp only [runHost, hostCall, Callback.next, hhost]

theorem step_of_runHost_error {s : State} {f : Fault} (hrun : s.run = .running)
    (h : runHost s = .error f) : step s = .fault f := by
  simp only [step, hrun, h]

theorem step_of_fetch_error {s s0 : State} {f : Fault} (hrun : s.run = .running)
    (h : runHost s = .ok s0) (hf : fetch s0 = .error f) : step s = .fault f := by
  simp only [step, hrun, h, hf]

theorem step_of_fetch_ok {s s0 s1 : State} {i : Instr} (hrun : s.run = .running)
    (h : runHost s = .ok s0) (hf : fetch s0 = .ok (i, s1)) : step s = exec i s1 := by
  simp only [step, hrun, h, hf]

/-- A call with one effect is that effect. -/
theorem runHostActs_singleton (act : HostAct) (s : State) : runHostActs [act] s = runHostAct act s := by
  rw [runHostActs]
  cases runHostAct act s <;> rfl

theorem runHostAct_busRead_ok {addr : Addr} {s t : State} {v : Byte} (h : busRead addr s = .ok (v, t)) :
    runHostAct (.busRead addr) s = .ok t := by
  rw [runHostAct, h]
  rfl

theorem runHostAct_busRead_error {addr : Addr} {s : State} {f : Fault} (h : busRead addr s = .error f) :
    runHostAct (.busRead addr) s = .error f := by
  rw [runHostAct, h]
  rfl

/-- Settles O6: the step follows the call and the fetch, and each effect is evaluated. -/
theorem stepIsHostThenFetchThenExec : Obligations.StepIsHostThenFetchThenExec := by
  refine ⟨fun s acts later hrun hform => ?_, fun s hrun hid => ?_, fun s v w => ?_⟩
  · rw [← runHost_eq hform]
    exact ⟨fun f h => step_of_runHost_error hrun h, fun s0 h0 =>
      ⟨fun f hf => step_of_fetch_error hrun h0 hf, fun i s1 hf => step_of_fetch_ok hrun h0 hf⟩⟩
  · have h0 := runHost_identity hid
    exact ⟨fun f hf => step_of_fetch_error hrun h0 hf, fun i s1 hf => step_of_fetch_ok hrun h0 hf⟩
  · refine ⟨rfl, rfl, rfl, rfl, rfl, fun _ _ => rfl, fun _ => rfl, fun _ => rfl, fun _ => rfl, rfl, rfl,
      fun _ => rfl, runHostActs_singleton _ s, fun t h => ?_, fun f h => ?_, rfl⟩
    · rw [runHostActs_singleton, runHostAct_busRead_ok h]
    · rw [runHostActs_singleton, runHostAct_busRead_error h]

end Sys2Proof.Machine
end

section
/-! O60: a list of effects that takes any state to a given canonical one. -/

namespace Sys2Proof.Machine

/-! ### Writing a whole array, cell by cell -/

/-- The array `m` with the cells `ks` as `target` has them. -/
def Memory.copyCells {n : Nat} (target : Memory) (ks : List (Fin n)) (m : Memory) : Memory :=
  ks.foldl (fun m k => m.write k (target.read k)) m

theorem Memory.wf_copyCells {n : Nat} (target : Memory) (ks : List (Fin n)) {m : Memory}
    (h : m.wf = true) : (target.copyCells ks m).wf = true := by
  induction ks generalizing m with
  | nil => exact h
  | cons k ks ih => exact ih (Memory.wf_write h k _)

theorem Memory.read_copyCells {n : Nat} (target : Memory) (ks : List (Fin n)) {m : Memory}
    (h : m.wf = true) {j : Nat} (hj : (∃ k ∈ ks, (k : Nat) = j) ∨ m.read j = target.read j) :
    (target.copyCells ks m).read j = target.read j := by
  induction ks generalizing m with
  | nil => exact hj.resolve_left (by simp)
  | cons k ks ih =>
    refine ih (Memory.wf_write h k _) ?_
    by_cases hk : j = k
    · subst hk
      exact .inr (Memory.read_write_same h k _)
    · rw [Memory.read_write_other m _ hk]
      rcases hj with ⟨k', hmem, rfl⟩ | hj
      · rcases List.mem_cons.1 hmem with rfl | hmem
        · exact absurd rfl hk
        · exact .inl ⟨k', hmem, rfl⟩
      · exact .inr hj

theorem Memory.read_of_below {m : Memory} {n k : Nat} (h : m.below n = true) (hk : n ≤ k) :
    m.read k = unlisted := by
  induction m with
  | nil => rfl
  | cons c rest ih =>
    obtain ⟨i, w⟩ := c
    simp only [Memory.below, List.all_cons, Bool.and_eq_true, decide_eq_true_eq] at h
    obtain ⟨hi, hrest⟩ := h
    rw [Memory.read, if_neg (by omega)]
    exact ih hrest

/-- Copying every cell of a canonical array over a canonical array of the same size gives that array. -/
theorem Memory.copyCells_all {n : Nat} {target m : Memory} (ht : target.wf = true)
    (htn : target.below n = true) (hm : m.wf = true) (hmn : m.below n = true) :
    target.copyCells (List.finRange n) m = target := by
  refine Memory.ext_of_wf (Memory.wf_copyCells target _ hm) ht fun j => Memory.read_copyCells target _ hm ?_
  rcases Nat.lt_or_ge j n with hj | hj
  · exact .inl ⟨⟨j, hj⟩, List.mem_finRange _, rfl⟩
  · exact .inr ((Memory.read_of_below hmn hj).trans (Memory.read_of_below htn hj).symm)

/-! ### The effects that write a state -/

/-- Two lists of effects that complete, one after the other. -/
theorem runHostActs_append_ok {acts more : List HostAct} {s u t : State} (h : runHostActs acts s = .ok u)
    (h' : runHostActs more u = .ok t) : runHostActs (acts ++ more) s = .ok t := by
  rw [runHostActs_append]
  exact bind_ok.2 ⟨u, h, h'⟩

/-- The effects `act k v` that write the cells of `target`, one for each index below `n`. -/
def copyActs {n : Nat} (act : Fin n → Byte → HostAct) (target : Memory) : List HostAct :=
  (List.finRange n).map fun k => act k (target.read k)

/-- If `act k v` writes the byte `v` at `k` of the array that `put` holds, the effects of `copyActs` make
that array `target`. -/
theorem runHostActs_copyActs {n : Nat} {act : Fin n → Byte → HostAct} {put : Memory → State}
    (hact : ∀ m k v, runHostAct (act k v) (put m) = .ok (put (m.write k v))) {target m : Memory}
    (ht : target.wf = true) (htn : target.below n = true) (hm : m.wf = true) (hmn : m.below n = true) :
    runHostActs (copyActs act target) (put m) = .ok (put target) := by
  have hcells : ∀ (ks : List (Fin n)) (m : Memory),
      runHostActs (ks.map fun k => act k (target.read k)) (put m) = .ok (put (target.copyCells ks m)) := by
    intro ks
    induction ks with
    | nil => exact fun _ => rfl
    | cons k ks ih =>
      intro m
      rw [List.map_cons, runHostActs, hact]
      exact ih _
  rw [copyActs, hcells, Memory.copyCells_all ht htn hm hmn]

/-- The effect that writes the byte at `k` of `cpu_ram`: a bus write at the address `k`. -/
def ramAct (k : Fin 2048) (v : Byte) : HostAct := .busWrite (BitVec.ofNat 16 k) v

theorem runHostAct_ramAct (k : Fin 2048) (v : Byte) (s : State) :
    runHostAct (ramAct k v) s = .ok { s with cpuRam := s.cpuRam.write k v } := by
  have hk : (k : Nat) < 2048 := k.isLt
  have haddr : BitVec.ofNat 16 k ≤ (0x1FFF : Addr) := by
    rw [BitVec.le_def, BitVec.toNat_ofNat, Nat.mod_eq_of_lt (by omega)]
    exact Nat.le_trans (Nat.le_of_lt hk) (by decide)
  have hindex : ramIndex (BitVec.ofNat 16 k) = k := by
    rw [ramIndex, BitVec.toNat_and, BitVec.toNat_ofNat, Nat.mod_eq_of_lt (by omega)]
    exact (Nat.and_two_pow_sub_one_eq_mod k 11).trans (Nat.mod_eq_of_lt hk)
  simp only [ramAct, runHostAct, busWrite, if_pos haddr, ramWrite, hindex]

/-- The effects that write `run` and the CPU's registers of `g`. -/
def cpuActs (g : State) : List HostAct :=
  [.setRun g.run, .setA g.a, .setX g.x, .setY g.y, .setSp g.sp, .setP g.p, .setPc g.pc]

/-- The effects that write the PPU's registers and latches of `g`. -/
def ppuActs (g : State) : List HostAct :=
  [.setPpuAddr g.ppu.addr, .setAddrLatch g.ppu.addrLatch, .setPpuCtrl g.ppu.ctrl, .setPpuMask g.ppu.mask,
    .setScrollX g.ppu.scrollX, .setScrollY g.ppu.scrollY, .setScrollLatch g.ppu.scrollLatch,
    .setReadBuffer g.ppu.readBuffer]

/-- The effects that write the arrays of `g`. -/
def arrayActs (g : State) : List HostAct :=
  copyActs ramAct g.cpuRam ++ (copyActs .setVram g.ppu.vram ++
    (copyActs .setPalette g.ppu.palette ++ copyActs .setOam g.ppu.oam))

/-- The state `g` with its four RAM arrays replaced. -/
def State.withArrays (g : State) (ram vram palette oam : Memory) : State :=
  { g with cpuRam := ram, ppu := { g.ppu with vram := vram, palette := palette, oam := oam } }

theorem runHostActs_cpuActs_fatal {g : State} {f : Fault} (hg : g.run = .fatal f) (s : State) :
    runHostActs (cpuActs g) s = .error f := by
  rw [cpuActs, hg, runHostActs]
  exact bind_error.2 (.inl rfl)

theorem runHostActs_cpuActs {g : State} (hg : ∀ f, g.run ≠ .fatal f) (s : State) :
    runHostActs (cpuActs g) s =
      .ok { s with run := g.run, a := g.a, x := g.x, y := g.y, sp := g.sp, p := g.p, pc := g.pc } := by
  rw [cpuActs]
  cases hrun : g.run with
  | fatal f => exact absurd hrun (hg f)
  | running | halted => rfl

theorem runHostActs_ppuActs (g s : State) :
    runHostActs (ppuActs g) s = .ok { s with ppu := { g.ppu with
      vram := s.ppu.vram, palette := s.ppu.palette, oam := s.ppu.oam } } := rfl

theorem ramWf_iff {s : State} :
    ramWf s = true ↔ (s.cpuRam.wf = true ∧ s.cpuRam.below 2048 = true) ∧
      (s.ppu.vram.wf = true ∧ s.ppu.vram.below 2048 = true) ∧
      (s.ppu.palette.wf = true ∧ s.ppu.palette.below 32 = true) ∧
      (s.ppu.oam.wf = true ∧ s.ppu.oam.below 256 = true) := by
  simp only [ramWf, Bool.and_eq_true, and_assoc]

/-- The arrays of `g` are written over any canonical ones. -/
theorem runHostActs_arrayActs {g s t : State} (hg : ramWf g = true) (hs : ramWf s = true) :
    runHostActs (arrayActs g) (t.withArrays s.cpuRam s.ppu.vram s.ppu.palette s.ppu.oam) =
      .ok (t.withArrays g.cpuRam g.ppu.vram g.ppu.palette g.ppu.oam) := by
  obtain ⟨⟨hram, hramN⟩, ⟨hvram, hvramN⟩, ⟨hpal, hpalN⟩, hoam, hoamN⟩ := ramWf_iff.1 hg
  obtain ⟨⟨hram', hramN'⟩, ⟨hvram', hvramN'⟩, ⟨hpal', hpalN'⟩, hoam', hoamN'⟩ := ramWf_iff.1 hs
  have h1 := runHostActs_copyActs (put := fun m => t.withArrays m s.ppu.vram s.ppu.palette s.ppu.oam)
    (fun _ k v => runHostAct_ramAct k v _) hram hramN hram' hramN'
  have h2 := runHostActs_copyActs (put := fun m => t.withArrays g.cpuRam m s.ppu.palette s.ppu.oam)
    (act := .setVram) (fun _ _ _ => rfl) hvram hvramN hvram' hvramN'
  have h3 := runHostActs_copyActs (put := fun m => t.withArrays g.cpuRam g.ppu.vram m s.ppu.oam)
    (act := .setPalette) (fun _ _ _ => rfl) hpal hpalN hpal' hpalN'
  have h4 := runHostActs_copyActs (put := fun m => t.withArrays g.cpuRam g.ppu.vram g.ppu.palette m)
    (act := .setOam) (fun _ _ _ => rfl) hoam hoamN hoam' hoamN'
  exact runHostActs_append_ok h1 (runHostActs_append_ok h2 (runHostActs_append_ok h3 h4))

/-- The effects that write all of `g`. -/
def stateActs (g : State) : List HostAct := cpuActs g ++ (ppuActs g ++ arrayActs g)

theorem runHostActs_stateActs_fatal {g : State} {f : Fault} (hg : g.run = .fatal f) (s : State) :
    runHostActs (stateActs g) s = .error f := by
  rw [stateActs, runHostActs_append, runHostActs_cpuActs_fatal hg]
  rfl

/-- The state `g` is written over a state with the same cartridge; the callback stays. -/
theorem runHostActs_stateActs {g s : State} (hg : ramWf g = true) (hs : ramWf s = true)
    (hcart : g.cart = s.cart) (hrun : ∀ f, g.run ≠ .fatal f) :
    runHostActs (stateActs g) s = .ok { g with host := s.host } := by
  have hregisters : runHostActs (cpuActs g ++ ppuActs g) s =
      .ok ({ g with host := s.host }.withArrays s.cpuRam s.ppu.vram s.ppu.palette s.ppu.oam) := by
    rw [State.withArrays, hcart]
    exact runHostActs_append_ok (runHostActs_cpuActs hrun s) (runHostActs_ppuActs g _)
  rw [stateActs, ← List.append_assoc]
  exact runHostActs_append_ok hregisters (runHostActs_arrayActs hg hs)

/-- Settles O60: the effects of a call in the state `s` are the ones that write `F s`. -/
theorem everyHostFunctionIsACallback : Obligations.EveryHostFunctionIsACallback := by
  intro F hF
  refine ⟨fun s => stateActs (F s), fun s later hs => ?_⟩
  obtain ⟨hwf, hcart, -⟩ := hF s hs
  exact ⟨fun f hfatal => runHostActs_stateActs_fatal hfatal _,
    fun hrun => runHostActs_stateActs (s := { s with host := later }) hwf hs hcart hrun⟩

end Sys2Proof.Machine
end

section
/-! O58: what an instruction does to the PPU side of the machine, the cartridge and the callback, said once for `exec` as a
chain of bus accesses and of changes that the CPU makes in itself. -/

namespace Sys2Proof.Machine

/-- The state outside the CPU and its RAM is the same: the cartridge, the PPU register file and the callback. -/
structure SameDevices (s t : State) : Prop where
  cart : t.cart = s.cart
  ppu : t.ppu = s.ppu
  host : t.host = s.host

/-- One stage of an instruction: a change of the CPU's own state, or one bus access at a listed address. -/
inductive AccessStep (accessed : List Addr) : State → State → Prop
  | cpu {s t : State} : SameDevices s t → AccessStep accessed s t
  | read {a : Addr} {v : Byte} {s t : State} :
      a ∈ accessed → busRead a s = .ok (v, t) → AccessStep accessed s t
  | write {a : Addr} {v : Byte} {s t : State} :
      a ∈ accessed → busWrite a v s = .ok t → AccessStep accessed s t

/-- Finitely many stages with bus accesses at the listed addresses only. -/
abbrev Accesses (accessed : List Addr) : State → State → Prop :=
  Relation.ReflTransGen (AccessStep accessed)

/-! ### Every instruction is such a chain -/

theorem mem_resolve {m : Operand} {s : State} {ea : Addr} (h : resolve m s = .ok ea) :
    ea ∈ (resolve m s).toOption.toList := by
  simp [h, Except.toOption]

theorem mem_operandAddr {m : Operand} {s : State} {ea : Addr} (hm : ∀ b, m ≠ .imm b)
    (h : resolve m s = .ok ea) : ea ∈ operandAddr m s := by
  cases m with
  | imm b => exact absurd rfl (hm b)
  | _ => exact mem_resolve h

theorem readInstr_accesses {m : Operand} {f : Byte → State → State} {s t : State} {accessed : List Addr}
    (h : readInstr m f s = .next t) (hf : ∀ v u, SameDevices u (f v u))
    (hm : operandAddr m s ⊆ accessed) : Accesses accessed s t := by
  obtain ⟨v, s1, hr, rfl⟩ := readInstr_next.1 h
  have hlast : AccessStep accessed s1 (advance m.length (f v s1)) :=
    .cpu ⟨(hf v s1).cart, (hf v s1).ppu, (hf v s1).host⟩
  rcases readOperand_cases hr with ⟨-, rfl⟩ | ⟨hi, ea, hea, hb⟩
  · exact .single hlast
  · exact .tail (.single (.read (hm (mem_operandAddr hi hea)) hb)) hlast

theorem storeInstr_accesses {m : Operand} {v : Addr → Byte} {s t : State} {accessed : List Addr}
    (h : storeInstr m v s = .next t) (hm : (resolve m s).toOption.toList ⊆ accessed) :
    Accesses accessed s t := by
  obtain ⟨ea, s1, hea, hb, rfl⟩ := storeInstr_next.1 h
  exact .tail (.single (.write (hm (mem_resolve hea)) hb)) (.cpu ⟨rfl, rfl, rfl⟩)

theorem modifyInstr_accesses {m : Operand} {r : Byte → Byte} {g : Byte → Byte → State → State}
    {s t : State} {accessed : List Addr} (h : modifyInstr m r g s = .next t)
    (hg : ∀ old res u, SameDevices u (g old res u)) (hm : (resolve m s).toOption.toList ⊆ accessed) :
    Accesses accessed s t := by
  obtain ⟨ea, old, s1, s2, hea, hr, hw, rfl⟩ := modifyInstr_next.1 h
  have hin := hm (mem_resolve hea)
  have hsame := hg old (r old) s2
  exact .tail (.tail (.single (.read hin hr)) (.write hin hw)) (.cpu ⟨hsame.cart, hsame.ppu, hsame.host⟩)

theorem shiftInstr_accesses {m : Operand} {r : Byte → Byte} {out : Byte → Bool} {s t : State}
    {accessed : List Addr} (h : shiftInstr m r out s = .next t)
    (hm : (resolve m s).toOption.toList ⊆ accessed) : Accesses accessed s t := by
  cases m with
  | acc =>
    cases h
    exact .single (.cpu ⟨rfl, rfl, rfl⟩)
  | _ =>
    simp only [shiftInstr] at h
    exact modifyInstr_accesses h (fun _ _ _ => ⟨rfl, rfl, rfl⟩) hm

theorem branch_accesses {taken : Bool} {d : Byte} {s t : State} {accessed : List Addr}
    (h : branch taken d s = .next t) : Accesses accessed s t := by
  cases taken <;> cases h <;> exact .single (.cpu ⟨rfl, rfl, rfl⟩)

theorem word_hiByte_loByte (w : Addr) : word (hiByte w) (loByte w) = w := by
  rw [word, hiByte, loByte, BitVec.extractLsb'_append_extractLsb'_eq_extractLsb' (by rfl)]
  exact BitVec.extractLsb'_eq_self

theorem word_toNat (h l : Byte) : (word h l).toNat = h.toNat * 256 + l.toNat := by
  rw [word, BitVec.toNat_append, ← Nat.shiftLeft_add_eq_or_of_lt l.isLt, Nat.shiftLeft_eq]

theorem word_and_highMask (h l : Byte) : word h l &&& 0xFF00 = word h 0x00 := by
  change (h ++ l) &&& (0xFF#8 ++ 0x00#8) = h ++ 0x00#8
  rw [BitVec.and_append, BitVec.and_zero]
  congr 1
  exact BitVec.and_allOnes

theorem word_add_one {h l : Byte} (hl : l ≠ 0xFF) : word h l + 1 = word h (l + 1) := by
  have hne : l.toNat ≠ 255 := fun he => hl (BitVec.eq_of_toNat_eq he)
  have hlt := l.isLt
  have hhlt := h.isLt
  refine BitVec.eq_of_toNat_eq ?_
  rw [BitVec.toNat_add, word_toNat, word_toNat, BitVec.toNat_add]
  change (_ + _ + 1) % _ = _ + (_ + 1) % _
  omega

/-- The second pointer byte of JMP indirect stays in the page of the first (R281). -/
theorem jmpInd_second (ptr : Addr) :
    (if loByte ptr == 0xFF then ptr &&& 0xFF00 else ptr + 1) = word (hiByte ptr) (loByte ptr + 1) := by
  have hptr := word_hiByte_loByte ptr
  split
  · rename_i hff
    rw [eq_of_beq hff, ← hptr, word_and_highMask, hptr]
    rfl
  · rename_i hff
    rw [← word_add_one fun he => hff (beq_iff_eq.2 he), hptr]

theorem execJmpInd_accesses {ptr : Addr} {s t : State} (h : execJmpInd ptr s = .next t) :
    Accesses [ptr, word (hiByte ptr) (loByte ptr + 1)] s t := by
  simp only [execJmpInd, jmpInd_second, finish_next, bind_ok, Prod.exists, Except.ok.injEq] at h
  obtain ⟨l, s1, hl, hi, s2, hh, rfl⟩ := h
  exact .tail (.tail (.single (.read (by simp) hl)) (.read (by simp) hh)) (.cpu ⟨rfl, rfl, rfl⟩)

/-- Everything an instruction can do to the PPU side, the cartridge and the callback: the bus accesses
that `readsFrom` and `storesTo` list. A pushed byte is in the CPU's own RAM. -/
theorem exec_accesses {i : Instr} {s t : State} (h : exec i s = .next t) :
    Accesses (readsFrom i s ++ storesTo i s) s t := by
  cases i with
  | lda | ldx | ldy | adc | sbc | and | ora | eor | bit | cmp | cpx | cpy | ign | lax | las =>
    simp only [exec, execLda, execLdx, execLdy, execAdc, execSbc, execAnd, execOra, execEor, execBit, execCmp,
      execCpx, execCpy, execIgn, execLax, execLas] at h
    exact readInstr_accesses h (fun _ _ => ⟨rfl, rfl, rfl⟩) (List.subset_append_left _ _)
  | sta | stx | sty | sax | ahx | shx | shy =>
    simp only [exec, execSta, execStx, execSty, execSax, execAhx, execShx, execShy] at h
    exact storeInstr_accesses h (List.subset_append_right _ _)
  | tas =>
    simp only [exec, execTas] at h
    refine .head (b := { s with sp := s.a &&& s.x }) (.cpu ⟨rfl, rfl, rfl⟩) (storeInstr_accesses h ?_)
    exact List.subset_append_right _ _
  | inc | dec | dcp | isc =>
    simp only [exec, execInc, execDec, execDcp, execIsc] at h
    exact modifyInstr_accesses h (fun _ _ _ => ⟨rfl, rfl, rfl⟩) (List.subset_append_right _ _)
  | asl | lsr | rol | ror =>
    simp only [exec, execAsl, execLsr, execRol, execRor] at h
    exact shiftInstr_accesses h (List.subset_append_right _ _)
  | bcc | bcs | beq | bmi | bne | bpl | bvc | bvs =>
    simp only [exec, execBcc, execBcs, execBeq, execBmi, execBne, execBpl, execBvc, execBvs] at h
    exact branch_accesses h
  | jmpInd ptr => exact execJmpInd_accesses h
  | kil | unknown => cases h
  | tax | tay | txa | tya | tsx | txs | inx | iny | dex | dey | pha | pla | php | plp | jsr | rts | rti
  | jmp | clc | sec | cli | sei | cld | sed | clv | nop | brk | nopIllegal | skb | anc | alr | arr | axs
  | sbcAlias =>
    cases h
    exact .single (.cpu ⟨rfl, rfl, rfl⟩)

/-! ### What such a chain leaves of the PPU -/

@[simp] theorem Ppu.writeScroll_vram (v : Byte) (u : Ppu) : (u.writeScroll v).vram = u.vram := by
  unfold Ppu.writeScroll
  split <;> rfl

@[simp] theorem Ppu.writeScroll_palette (v : Byte) (u : Ppu) : (u.writeScroll v).palette = u.palette := by
  unfold Ppu.writeScroll
  split <;> rfl

@[simp] theorem Ppu.writeAddr_vram (v : Byte) (u : Ppu) : (u.writeAddr v).vram = u.vram := by
  unfold Ppu.writeAddr
  split <;> rfl

@[simp] theorem Ppu.writeAddr_palette (v : Byte) (u : Ppu) : (u.writeAddr v).palette = u.palette := by
  unfold Ppu.writeAddr
  split <;> rfl

/-- A bus write outside the window leaves the PPU register file (R10). -/
theorem busWrite_ppu_of_outside {addr : Addr} {v : Byte} {s t : State} (h : busWrite addr v s = .ok t)
    (hout : ¬ InPpu addr) : t.ppu = s.ppu := by
  rcases busWrite_cases h with ⟨-, rfl⟩ | ⟨hp, -⟩ | ⟨hp, -⟩ | ⟨hp, -⟩ | ⟨hp, -⟩ | ⟨⟨hp, -⟩, -⟩
  · rfl
  all_goals exact absurd hp hout

/-- A bus write that is not at the data port leaves the arrays behind it (R77). -/
theorem busWrite_arrays_of_not_port {addr : Addr} {v : Byte} {s t : State}
    (h : busWrite addr v s = .ok t) (hport : ¬ IsDataPort addr) :
    t.ppu.vram = s.ppu.vram ∧ t.ppu.palette = s.ppu.palette := by
  rcases busWrite_cases h with ⟨-, rfl⟩ | ⟨-, -, rfl⟩ | ⟨-, -, rfl⟩ | ⟨-, -, rfl⟩ | ⟨-, -, rfl⟩ | ⟨hp, -⟩
  · exact ⟨rfl, rfl⟩
  · exact ⟨rfl, rfl⟩
  · exact ⟨rfl, rfl⟩
  · exact ⟨s.ppu.writeScroll_vram v, s.ppu.writeScroll_palette v⟩
  · exact ⟨s.ppu.writeAddr_vram v, s.ppu.writeAddr_palette v⟩
  · exact absurd hp hport

/-- The frame of the PPU around accesses at the listed addresses: O58's conclusion. -/
structure PpuFrame (accessed : List Addr) (s t : State) : Prop where
  cart : t.cart = s.cart
  oam : t.ppu.oam = s.ppu.oam
  host : t.host = s.host
  outside : (∀ a ∈ accessed, ¬ InPpu a) → t.ppu = s.ppu
  offPort : (∀ a ∈ accessed, ¬ IsDataPort a) →
    t.ppu.vram = s.ppu.vram ∧ t.ppu.palette = s.ppu.palette ∧ t.ppu.readBuffer = s.ppu.readBuffer

theorem PpuFrame.of_sameDevices {accessed : List Addr} {s t : State} (h : SameDevices s t) :
    PpuFrame accessed s t where
  cart := h.cart
  oam := by rw [h.ppu]
  host := h.host
  outside _ := h.ppu
  offPort _ := by simp [h.ppu]

theorem PpuFrame.trans {accessed : List Addr} {s u t : State} (h : PpuFrame accessed s u)
    (h' : PpuFrame accessed u t) : PpuFrame accessed s t where
  cart := h'.cart.trans h.cart
  oam := h'.oam.trans h.oam
  host := h'.host.trans h.host
  outside ha := (h'.outside ha).trans (h.outside ha)
  offPort ha := by
    obtain ⟨hv, hp, hb⟩ := h.offPort ha
    obtain ⟨hv', hp', hb'⟩ := h'.offPort ha
    exact ⟨hv'.trans hv, hp'.trans hp, hb'.trans hb⟩

theorem AccessStep.ppuFrame {accessed : List Addr} {s t : State} (h : AccessStep accessed s t) :
    PpuFrame accessed s t := by
  cases h with
  | cpu h => exact .of_sameDevices h
  | @read a _ _ _ ha h =>
    have heffect := busRead_effect h
    have hpure : ¬ IsDataPort a → t = s := busRead_pure h
    refine ⟨by rw [heffect], by rw [heffect], by rw [heffect],
      fun hout => ?_, fun hoff => ?_⟩
    · rw [hpure fun hport => hout a ha hport.1]
    · rw [hpure (hoff a ha)]
      exact ⟨rfl, rfl, rfl⟩
  | @write a _ _ _ ha h =>
    obtain ⟨heffect, hoam, hbuffer⟩ := busWrite_effect h
    refine ⟨by rw [heffect], hoam, by rw [heffect],
      fun hout => busWrite_ppu_of_outside h (hout a ha), fun hoff => ?_⟩
    obtain ⟨hvram, hpalette⟩ := busWrite_arrays_of_not_port h (hoff a ha)
    exact ⟨hvram, hpalette, hbuffer⟩

theorem Accesses.ppuFrame {accessed : List Addr} {s t : State} (h : Accesses accessed s t) :
    PpuFrame accessed s t := by
  induction h with
  | refl => exact .of_sameDevices ⟨rfl, rfl, rfl⟩
  | tail _ hlast ih => exact ih.trans hlast.ppuFrame

/-- Settles O58: an instruction is a chain of accesses at the listed addresses, and each keeps the frame. -/
theorem ppuChangesOnlyThroughItsWindow : Obligations.PpuChangesOnlyThroughItsWindow := by
  intro i s t h
  obtain ⟨hcart, hoam, hhost, houtside, hoffPort⟩ := (exec_accesses h).ppuFrame
  exact ⟨hcart, hoam, hhost, houtside, hoffPort⟩

end Sys2Proof.Machine
end

section
/-! O29: every array stays canonical. An instruction writes `cpu_ram` only at the addresses it stores to, and reaches the
arrays behind the data port only by the bus accesses of `exec_accesses`. -/

namespace Sys2Proof.Machine

/-! ### Canonical arrays -/

/-- The array is in canonical form and inside its size of `n` bytes. -/
def Memory.CanonicalIn (n : Nat) (m : Memory) : Prop := m.wf = true ∧ m.below n = true

theorem Memory.CanonicalIn.write {n k : Nat} {m : Memory} (h : m.CanonicalIn n) (hk : k < n) (v : Byte) :
    (m.write k v).CanonicalIn n :=
  ⟨Memory.wf_write h.1 k v, Memory.below_write h.2 hk v⟩

/-- The three arrays of the PPU are canonical and inside their sizes (R41 to R43). -/
structure Ppu.Canonical (u : Ppu) : Prop where
  vram : u.vram.CanonicalIn 2048
  palette : u.palette.CanonicalIn 32
  oam : u.oam.CanonicalIn 256

theorem stateWf_iff {s : State} :
    stateWf s = true ↔ s.cpuRam.CanonicalIn 2048 ∧ s.ppu.Canonical ∧ cartWf s.cart = true := by
  rw [stateWf, Bool.and_eq_true, ramWf_iff]
  constructor
  · rintro ⟨⟨hram, hvram, hpalette, hoam⟩, hcart⟩
    exact ⟨hram, ⟨hvram, hpalette, hoam⟩, hcart⟩
  · rintro ⟨hram, ⟨hvram, hpalette, hoam⟩, hcart⟩
    exact ⟨⟨hram, hvram, hpalette, hoam⟩, hcart⟩

theorem Ppu.Canonical.dataWrite {c : Cartridge} {v : Byte} {u u' : Ppu} (hu : u.Canonical)
    (h : Machine.dataWrite c v u = .ok u') : u'.Canonical := by
  rcases dataWrite_cases h with ⟨-, -, k, hk, rfl⟩ | ⟨-, -, rfl⟩
  · exact ⟨hu.vram.write (vramIndex_lt hk) v, hu.palette, hu.oam⟩
  · exact ⟨hu.vram, hu.palette.write (palIndex_lt u.addr).1 v, hu.oam⟩

theorem busRead_keeps_ppu_canonical {addr : Addr} {v : Byte} {s t : State}
    (h : busRead addr s = .ok (v, t)) (hs : s.ppu.Canonical) : t.ppu.Canonical := by
  rw [busRead_effect h]
  exact ⟨hs.vram, hs.palette, hs.oam⟩

theorem busWrite_keeps_ppu_canonical {addr : Addr} {v : Byte} {s t : State}
    (h : busWrite addr v s = .ok t) (hs : s.ppu.Canonical) : t.ppu.Canonical := by
  by_cases hport : IsDataPort addr
  · rcases busWrite_cases h with ⟨-, rfl⟩ | ⟨-, -, rfl⟩ | ⟨-, -, rfl⟩ | ⟨-, hr, -⟩ | ⟨-, hr, -⟩ |
      ⟨-, u, hu, rfl⟩
    · exact hs
    · exact ⟨hs.vram, hs.palette, hs.oam⟩
    · exact ⟨hs.vram, hs.palette, hs.oam⟩
    · cases hport.2.symm.trans hr
    · cases hport.2.symm.trans hr
    · exact hs.dataWrite hu
  · obtain ⟨hvram, hpalette⟩ := busWrite_arrays_of_not_port h hport
    obtain ⟨-, hoam, -⟩ := busWrite_effect h
    exact ⟨hvram ▸ hs.vram, hpalette ▸ hs.palette, hoam ▸ hs.oam⟩

theorem AccessStep.keeps_ppu_canonical {accessed : List Addr} {s t : State}
    (h : AccessStep accessed s t) (hs : s.ppu.Canonical) : t.ppu.Canonical := by
  cases h with
  | cpu h => exact h.ppu ▸ hs
  | read _ h => exact busRead_keeps_ppu_canonical h hs
  | write _ h => exact busWrite_keeps_ppu_canonical h hs

theorem Accesses.keeps_ppu_canonical {accessed : List Addr} {s t : State} (h : Accesses accessed s t)
    (hs : s.ppu.Canonical) : t.ppu.Canonical := by
  induction h with
  | refl => exact hs
  | tail _ hlast ih => exact hlast.keeps_ppu_canonical ih

/-! ### What an instruction writes in `cpu_ram` -/

/-- One byte of `cpu_ram` is written, at a listed address. -/
inductive RamStep (stored : List Addr) : Memory → Memory → Prop
  | write {a : Addr} (m : Memory) (v : Byte) :
      a ∈ stored → a ≤ 0x1FFF → RamStep stored m (m.write (ramIndex a) v)

/-- Finitely many bytes of `cpu_ram` are written, at the listed addresses only. -/
abbrev RamWrites (stored : List Addr) : Memory → Memory → Prop := Relation.ReflTransGen (RamStep stored)

theorem RamWrites.of_eq {stored : List Addr} {m n : Memory} (h : n = m) : RamWrites stored m n :=
  h ▸ .refl

theorem busRead_cpuRam {addr : Addr} {v : Byte} {s t : State} (h : busRead addr s = .ok (v, t)) :
    t.cpuRam = s.cpuRam := by
  rw [busRead_effect h]

theorem busWrite_ramWrites {addr : Addr} {v : Byte} {s t : State} {stored : List Addr}
    (h : busWrite addr v s = .ok t) (hmem : addr ∈ stored) : RamWrites stored s.cpuRam t.cpuRam := by
  rcases busWrite_cases h with ⟨ha, rfl⟩ | ⟨-, -, rfl⟩ | ⟨-, -, rfl⟩ | ⟨-, -, rfl⟩ | ⟨-, -, rfl⟩ |
    ⟨-, _, -, rfl⟩
  · exact .single (.write _ v hmem ha)
  all_goals exact .refl

/-- The stack lies in `cpu_ram` (R24, R240). -/
theorem stackAddr_le (sp : Byte) : stackAddr sp ≤ 0x1FFF := by
  have hlt := sp.isLt
  rw [BitVec.le_def, stackAddr, word_toNat]
  change 1 * 256 + sp.toNat ≤ 8191
  omega

theorem push_ramStep {stored : List Addr} (v : Byte) (s : State) (hmem : stackAddr s.sp ∈ stored) :
    RamStep stored s.cpuRam (push v s).cpuRam :=
  .write _ v hmem (stackAddr_le s.sp)

theorem readInstr_ramWrites {m : Operand} {f : Byte → State → State} {s t : State} {stored : List Addr}
    (h : readInstr m f s = .next t) (hf : ∀ v u, (f v u).cpuRam = u.cpuRam) :
    RamWrites stored s.cpuRam t.cpuRam := by
  obtain ⟨v, s1, hr, rfl⟩ := readInstr_next.1 h
  refine .of_eq ?_
  rw [advance_cpuRam, hf, readOperand_effect hr]

theorem storeInstr_ramWrites {m : Operand} {v : Addr → Byte} {s t : State}
    (h : storeInstr m v s = .next t) : RamWrites (resolve m s).toOption.toList s.cpuRam t.cpuRam := by
  obtain ⟨ea, s1, hea, hb, rfl⟩ := storeInstr_next.1 h
  rw [advance_cpuRam]
  exact busWrite_ramWrites hb (mem_resolve hea)

theorem modifyInstr_ramWrites {m : Operand} {r : Byte → Byte} {g : Byte → Byte → State → State}
    {s t : State} (h : modifyInstr m r g s = .next t) (hg : ∀ old res u, (g old res u).cpuRam = u.cpuRam) :
    RamWrites (resolve m s).toOption.toList s.cpuRam t.cpuRam := by
  obtain ⟨ea, old, s1, s2, hea, hr, hw, rfl⟩ := modifyInstr_next.1 h
  rw [advance_cpuRam, hg, ← busRead_cpuRam hr]
  exact busWrite_ramWrites hw (mem_resolve hea)

theorem shiftInstr_ramWrites {m : Operand} {r : Byte → Byte} {out : Byte → Bool} {s t : State}
    (h : shiftInstr m r out s = .next t) : RamWrites (resolve m s).toOption.toList s.cpuRam t.cpuRam := by
  cases m with
  | acc =>
    cases h
    exact .refl
  | _ =>
    simp only [shiftInstr] at h
    exact modifyInstr_ramWrites h fun _ _ _ => rfl

theorem branch_cpuRam {taken : Bool} {d : Byte} {s t : State} (h : branch taken d s = .next t) :
    t.cpuRam = s.cpuRam := by
  cases taken <;> cases h <;> rfl

theorem execJmpInd_cpuRam {ptr : Addr} {s t : State} (h : execJmpInd ptr s = .next t) :
    t.cpuRam = s.cpuRam := by
  simp only [execJmpInd, finish_next, bind_ok, Prod.exists, Except.ok.injEq] at h
  obtain ⟨_, s1, hl, _, s2, hh, rfl⟩ := h
  exact (busRead_cpuRam hh).trans (busRead_cpuRam hl)

/-- An instruction writes `cpu_ram` at most at the addresses that `storesTo` lists. -/
theorem exec_ramWrites {i : Instr} {s t : State} (h : exec i s = .next t) :
    RamWrites (storesTo i s) s.cpuRam t.cpuRam := by
  cases i with
  | lda | ldx | ldy | adc | sbc | and | ora | eor | bit | cmp | cpx | cpy | ign | lax | las =>
    simp only [exec, execLda, execLdx, execLdy, execAdc, execSbc, execAnd, execOra, execEor, execBit, execCmp,
      execCpx, execCpy, execIgn, execLax, execLas] at h
    exact readInstr_ramWrites h fun _ _ => rfl
  | sta | stx | sty | sax | ahx | shx | shy | tas =>
    simp only [exec, execSta, execStx, execSty, execSax, execAhx, execShx, execShy, execTas] at h
    exact storeInstr_ramWrites h
  | inc | dec | dcp | isc =>
    simp only [exec, execInc, execDec, execDcp, execIsc] at h
    exact modifyInstr_ramWrites h fun _ _ _ => rfl
  | asl | lsr | rol | ror =>
    simp only [exec, execAsl, execLsr, execRol, execRor] at h
    exact shiftInstr_ramWrites h
  | pha | php =>
    cases h
    exact .single (push_ramStep _ s List.mem_cons_self)
  | jsr =>
    cases h
    exact .tail (.single (push_ramStep _ s List.mem_cons_self))
      (push_ramStep _ (push _ s) (List.mem_cons_of_mem _ List.mem_cons_self))
  | bcc | bcs | beq | bmi | bne | bpl | bvc | bvs =>
    simp only [exec, execBcc, execBcs, execBeq, execBmi, execBne, execBpl, execBvc, execBvs] at h
    exact .of_eq (branch_cpuRam h)
  | jmpInd ptr => exact .of_eq (execJmpInd_cpuRam h)
  | kil | unknown => cases h
  | tax | tay | txa | tya | tsx | txs | inx | iny | dex | dey | pla | plp | rts | rti
  | jmp | clc | sec | cli | sei | cld | sed | clv | nop | brk | nopIllegal | skb | anc | alr | arr | axs
  | sbcAlias =>
    cases h
    exact .refl

theorem RamWrites.keeps_canonical {stored : List Addr} {m n : Memory} (h : RamWrites stored m n)
    (hm : m.CanonicalIn 2048) : n.CanonicalIn 2048 := by
  induction h with
  | refl => exact hm
  | tail _ hlast ih =>
    obtain ⟨_, v, _, _⟩ := hlast
    exact ih.write (ramIndex_lt _) v

/-! ### The parts of a step -/

theorem exec_keeps_stateWf {i : Instr} {s t : State} (h : exec i s = .next t) (hs : stateWf s = true) :
    stateWf t = true := by
  obtain ⟨hram, hppu, hcart⟩ := stateWf_iff.1 hs
  have haccesses := exec_accesses h
  exact stateWf_iff.2 ⟨(exec_ramWrites h).keeps_canonical hram, haccesses.keeps_ppu_canonical hppu,
    haccesses.ppuFrame.cart ▸ hcart⟩

theorem busRead_keeps_stateWf {addr : Addr} {v : Byte} {s t : State} (h : busRead addr s = .ok (v, t))
    (hs : stateWf s = true) : stateWf t = true := by
  rw [busRead_effect h]
  exact hs

theorem busWrite_keeps_stateWf {addr : Addr} {v : Byte} {s t : State} (h : busWrite addr v s = .ok t)
    (hs : stateWf s = true) : stateWf t = true := by
  obtain ⟨hram, hppu, hcart⟩ := stateWf_iff.1 hs
  have hcart_eq : t.cart = s.cart := by rw [(busWrite_effect h).1]
  exact stateWf_iff.2 ⟨(busWrite_ramWrites h (List.mem_singleton_self addr)).keeps_canonical hram,
    busWrite_keeps_ppu_canonical h hppu, hcart_eq ▸ hcart⟩

theorem fetch_keeps_stateWf {s t : State} {i : Instr} (h : fetch s = .ok (i, t)) (hs : stateWf s = true) :
    stateWf t = true := by
  rw [fetch_effect h]
  exact hs

theorem runHostAct_keeps_stateWf {act : HostAct} {s t : State} (h : runHostAct act s = .ok t)
    (hs : stateWf s = true) : stateWf t = true := by
  obtain ⟨hram, hppu, hcart⟩ := stateWf_iff.1 hs
  rcases runHostAct_cases h with ⟨_, _, _, _, _, _, _, u, rfl, hvram, hpalette, hoam, -⟩ | ⟨k, v, -, rfl⟩ |
    ⟨k, v, -, rfl⟩ | ⟨k, v, -, rfl⟩ | ⟨addr, v, h⟩ | ⟨addr, v, h⟩ | rfl
  · exact stateWf_iff.2 ⟨hram, ⟨hvram ▸ hppu.vram, hpalette ▸ hppu.palette, hoam ▸ hppu.oam⟩, hcart⟩
  · exact stateWf_iff.2 ⟨hram, ⟨hppu.vram.write k.isLt v, hppu.palette, hppu.oam⟩, hcart⟩
  · exact stateWf_iff.2 ⟨hram, ⟨hppu.vram, hppu.palette.write k.isLt v, hppu.oam⟩, hcart⟩
  · exact stateWf_iff.2 ⟨hram, ⟨hppu.vram, hppu.palette, hppu.oam.write k.isLt v⟩, hcart⟩
  · exact busRead_keeps_stateWf h hs
  · exact busWrite_keeps_stateWf h hs
  · exact hs

theorem runHost_keeps_stateWf {s t : State} (h : runHost s = .ok t) (hs : stateWf s = true) :
    stateWf t = true :=
  runHostActs_keeps (inv := fun u => stateWf u = true)
    (fun _ _ _ _ hu hact => runHostAct_keeps_stateWf hact hu) (s := { s with host := s.host.next }) hs h

/-- Settles O29: the call of the callback, the fetch and the instruction each keep the canonical form. -/
theorem stepKeepsStateCanonical : Obligations.StepKeepsStateCanonical := by
  intro s t hs h
  rcases step_cases h with ⟨-, rfl⟩ | ⟨-, s0, i, s1, hhost, hfetch, hexec⟩
  · exact hs
  · exact exec_keeps_stateWf hexec (fetch_keeps_stateWf hfetch (runHost_keeps_stateWf hhost hs))

end Sys2Proof.Machine
end

section
/-! O32, O55, O56: what an instruction writes in the registers and in P, said once for `exec`. -/

namespace Sys2Proof.Machine

/-- A property of every register is one of A, X, Y and SP. -/
theorem Reg.forall_iff {P : Reg → Prop} : (∀ r, P r) ↔ P .a ∧ P .x ∧ P .y ∧ P .sp :=
  ⟨fun h => ⟨h .a, h .x, h .y, h .sp⟩, fun ⟨ha, hx, hy, hsp⟩ r => by cases r <;> assumption⟩

section
variable {regs : List Reg} {flags : List Flag} {s t u : State}

/-- The registers and P are the same. -/
structure SameRegs (s t : State) : Prop where
  reg : ∀ r, t.reg r = s.reg r
  p : t.p = s.p

/-- From `s` to `t` only the registers `regs` and the flags `flags` change, and Z and N are those of each
written register but SP. -/
structure RegEffect (regs : List Reg) (flags : List Flag) (s t : State) : Prop where
  reg : ∀ r, r ∉ regs → t.reg r = s.reg r
  flag : ∀ f, f ∉ flags → Machine.flag t.p f = Machine.flag s.p f
  zn : ∀ r ∈ regs, r ≠ .sp →
    Machine.flag t.p .z = (t.reg r == 0) ∧ Machine.flag t.p .n = (t.reg r).getLsbD 7

theorem SameRegs.trans (h : SameRegs s t) (h' : SameRegs t u) : SameRegs s u :=
  ⟨fun r => (h'.reg r).trans (h.reg r), h'.p.trans h.p⟩

theorem RegEffect.after_sameRegs (h : SameRegs s t) (h' : RegEffect regs flags t u) :
    RegEffect regs flags s u where
  reg r hr := (h'.reg r hr).trans (h.reg r)
  flag f hf := (h'.flag f hf).trans (by rw [h.p])
  zn := h'.zn

theorem RegEffect.before_sameRegs (h : RegEffect regs flags s t) (h' : SameRegs t u) :
    RegEffect regs flags s u where
  reg r hr := (h'.reg r).trans (h.reg r hr)
  flag f hf := by rw [h'.p, h.flag f hf]
  zn r hr hsp := by rw [h'.p, h'.reg r]; exact h.zn r hr hsp

theorem advance_sameRegs (n : Nat) (s : State) : SameRegs s (advance n s) :=
  ⟨Reg.forall_iff.2 ⟨rfl, rfl, rfl, rfl⟩, rfl⟩

theorem RegEffect.advance {n : Nat} (h : RegEffect regs flags s t) :
    RegEffect regs flags s (Machine.advance n t) :=
  h.before_sameRegs (advance_sameRegs n t)

/-! ### The last write of an instruction -/

/-- An instruction that writes registers and then sets Z and N from the value they hold (R12). -/
theorem RegEffect.setZN {v : Byte} (hreg : ∀ r, r ∉ regs → t.reg r = s.reg r)
    (hval : ∀ r ∈ regs, r ≠ .sp → t.reg r = v)
    (hflag : ∀ f, f ≠ .z → f ≠ .n → f ∉ flags → Machine.flag t.p f = Machine.flag s.p f)
    (hzn : .z ∈ flags ∧ .n ∈ flags) : RegEffect regs flags s (Machine.setZN v t) where
  reg r hr := by rw [← hreg r hr]; cases r <;> rfl
  flag f hf := by
    have hfz : f ≠ .z := fun h => hf (h ▸ hzn.1)
    have hfn : f ≠ .n := fun h => hf (h ▸ hzn.2)
    rw [flag_setZN, if_neg hfn, if_neg hfz, hflag f hfz hfn hf]
  zn r hr hsp := by
    have hv : (Machine.setZN v t).reg r = v := by rw [← hval r hr hsp]; cases r <;> rfl
    rw [hv, flag_setZN, flag_setZN]
    exact ⟨rfl, rfl⟩

/-- A flag written after Z and N. -/
theorem RegEffect.setFlag {g : Flag} {b : Bool} (h : RegEffect regs flags s t) (hg : g ∈ flags)
    (hz : g ≠ .z) (hn : g ≠ .n) : RegEffect regs flags s (Machine.setFlag g b t) where
  reg r hr := by rw [← h.reg r hr]; cases r <;> rfl
  flag f hf := by
    have hfg : f ≠ g := fun hfg => hf (hfg ▸ hg)
    rw [setFlag_p, flag_putFlag, if_neg hfg, h.flag f hf]
  zn r hr hsp := by
    have hkept : (Machine.setFlag g b t).reg r = t.reg r := by cases r <;> rfl
    rw [hkept, setFlag_p, flag_putFlag, flag_putFlag, if_neg hz.symm, if_neg hn.symm]
    exact h.zn r hr hsp

/-- An instruction that writes flags only. -/
theorem RegEffect.of_flags (hreg : ∀ r, t.reg r = s.reg r)
    (hflag : ∀ f, f ∉ flags → Machine.flag t.p f = Machine.flag s.p f) : RegEffect [] flags s t :=
  ⟨fun r _ => hreg r, hflag, fun _ hr => absurd hr List.not_mem_nil⟩

/-- An instruction that writes neither a register nor a flag. -/
theorem SameRegs.regEffect (h : SameRegs s t) : RegEffect [] flags s t :=
  .of_flags h.reg fun _ _ => by rw [h.p]

/-- An instruction that moves SP and writes no other register. -/
theorem RegEffect.of_sp (ha : t.a = s.a) (hx : t.x = s.x) (hy : t.y = s.y)
    (hflag : ∀ f, f ∉ flags → Machine.flag t.p f = Machine.flag s.p f) : RegEffect [.sp] flags s t where
  reg r hr := by
    cases r with
    | a => exact ha
    | x => exact hx
    | y => exact hy
    | sp => exact absurd List.mem_cons_self hr
  flag := hflag
  zn r hr hsp := absurd (List.mem_singleton.1 hr) hsp

/-- `AddToA` writes A, and N, V, Z and C (R216). -/
theorem addToA_regEffect (v : Byte) (s : State) : RegEffect [.a] [.n, .v, .z, .c] s (addToA v s) := by
  rw [addToA]
  refine .setZN ?_ ?_ ?_ (by simp)
  · simp [Reg.forall_iff, State.reg]
  · simp [State.reg]
  · intro f _ _ hf
    simp_all

/-- `Compare` writes N, Z and C (R206). -/
theorem compare_regEffect (r m : Byte) (s : State) : RegEffect [] [.n, .z, .c] s (compare r m s) := by
  refine .of_flags (Reg.forall_iff.2 ⟨rfl, rfl, rfl, rfl⟩) fun f hf => ?_
  simp_all

/-! ### The shared shapes -/

theorem busRead_sameRegs {addr : Addr} {v : Byte} (h : busRead addr s = .ok (v, t)) : SameRegs s t := by
  rw [busRead_effect h]
  exact ⟨Reg.forall_iff.2 ⟨rfl, rfl, rfl, rfl⟩, rfl⟩

theorem readOperand_sameRegs {m : Operand} {v : Byte} (h : readOperand m s = .ok (v, t)) :
    SameRegs s t := by
  rw [readOperand_effect h]
  exact ⟨Reg.forall_iff.2 ⟨rfl, rfl, rfl, rfl⟩, rfl⟩

theorem busWrite_sameRegs {addr : Addr} {v : Byte} (h : busWrite addr v s = .ok t) : SameRegs s t := by
  rw [(busWrite_effect h).1]
  exact ⟨Reg.forall_iff.2 ⟨rfl, rfl, rfl, rfl⟩, rfl⟩

theorem readInstr_regEffect {m : Operand} {f : Byte → State → State} (h : readInstr m f s = .next t)
    (hf : ∀ v u, RegEffect regs flags u (f v u)) : RegEffect regs flags s t := by
  obtain ⟨v, s1, hr, rfl⟩ := readInstr_next.1 h
  exact ((hf v s1).after_sameRegs (readOperand_sameRegs hr)).advance

theorem storeInstr_sameRegs {m : Operand} {v : Addr → Byte} (h : storeInstr m v s = .next t) :
    SameRegs s t := by
  obtain ⟨ea, s1, -, hw, rfl⟩ := storeInstr_next.1 h
  exact (busWrite_sameRegs hw).trans (advance_sameRegs _ _)

theorem modifyInstr_regEffect {m : Operand} {r : Byte → Byte} {g : Byte → Byte → State → State}
    (h : modifyInstr m r g s = .next t) (hg : ∀ old res u, RegEffect regs flags u (g old res u)) :
    RegEffect regs flags s t := by
  obtain ⟨ea, old, s1, s2, -, hr, hw, rfl⟩ := modifyInstr_next.1 h
  have hbus := (busRead_sameRegs hr).trans (busWrite_sameRegs hw)
  exact ((hg old (r old) s2).after_sameRegs hbus).advance

theorem shiftInstr_regEffect {m : Operand} {r : Byte → Byte} {out : Byte → Bool}
    (h : shiftInstr m r out s = .next t) :
    RegEffect (if Operand.isAcc m then [.a] else []) [.n, .z, .c] s t := by
  cases m with
  | acc =>
    cases h
    refine .advance (.setZN ?_ ?_ ?_ (by simp))
    · simp [Reg.forall_iff, State.reg, Operand.isAcc]
    · simp [State.reg, Operand.isAcc]
    · intro f _ _ hf
      simp_all
  | _ =>
    simp only [shiftInstr] at h
    refine modifyInstr_regEffect h fun old res u => .setZN ?_ ?_ ?_ (by simp)
    · simp [State.reg]
    · simp [Operand.isAcc]
    · intro f _ _ hf
      simp_all

theorem branch_sameRegs {taken : Bool} {d : Byte} (h : branch taken d s = .next t) : SameRegs s t := by
  cases taken <;> cases h <;> exact ⟨Reg.forall_iff.2 ⟨rfl, rfl, rfl, rfl⟩, rfl⟩

theorem execJmpInd_sameRegs {ptr : Addr} (h : execJmpInd ptr s = .next t) : SameRegs s t := by
  simp only [execJmpInd, finish_next, bind_ok, Prod.exists, Except.ok.injEq] at h
  obtain ⟨_, s1, hl, _, s2, hh, rfl⟩ := h
  have hbus := (busRead_sameRegs hl).trans (busRead_sameRegs hh)
  exact ⟨Reg.forall_iff.2 (Reg.forall_iff.1 hbus.reg), hbus.p⟩

/-! ### Every instruction -/

/-- Every instruction writes only the registers and the flags that the spec's tables list for it, and leaves Z
and N as each written register but SP has them. -/
theorem exec_regEffect {i : Instr} (h : exec i s = .next t) :
    RegEffect (writesReg i) (writesFlag i) s t := by
  cases i with
  | lda | ldx | ldy | and | ora | eor | lax | las =>
    simp only [exec, execLda, execLdx, execLdy, execAnd, execOra, execEor, execLax, execLas] at h
    refine readInstr_regEffect h fun v u => .setZN ?_ ?_ ?_ (by simp [writesFlag])
    · simp [Reg.forall_iff, State.reg, writesReg]
    · simp [State.reg, writesReg]
    · simp
  | adc | sbc =>
    simp only [exec, execAdc, execSbc] at h
    exact readInstr_regEffect h fun _ u => addToA_regEffect _ u
  | cmp | cpx | cpy =>
    simp only [exec, execCmp, execCpx, execCpy] at h
    exact readInstr_regEffect h fun _ u => compare_regEffect _ _ u
  | bit =>
    simp only [exec, execBit] at h
    refine readInstr_regEffect h fun v u => .of_flags (Reg.forall_iff.2 ⟨rfl, rfl, rfl, rfl⟩) fun f hf => ?_
    simp_all [writesFlag]
  | ign =>
    simp only [exec, execIgn] at h
    exact readInstr_regEffect h fun v u => SameRegs.regEffect ⟨fun _ => rfl, rfl⟩
  | sta | stx | sty | sax | ahx | shx | shy =>
    simp only [exec, execSta, execStx, execSty, execSax, execAhx, execShx, execShy] at h
    exact (storeInstr_sameRegs h).regEffect
  | tas w =>
    simp only [exec, execTas] at h
    have hstore := storeInstr_sameRegs h
    exact .of_sp (hstore.reg .a) (hstore.reg .x) (hstore.reg .y) fun f _ => by rw [hstore.p]
  | inc | dec =>
    simp only [exec, execInc, execDec] at h
    refine modifyInstr_regEffect h fun old res u => .setZN ?_ ?_ ?_ (by simp [writesFlag])
    · simp
    · simp [writesReg]
    · simp
  | dcp =>
    simp only [exec, execDcp] at h
    exact modifyInstr_regEffect h fun _ _ u => compare_regEffect _ _ u
  | isc =>
    simp only [exec, execIsc] at h
    exact modifyInstr_regEffect h fun _ _ u => addToA_regEffect _ u
  | asl | lsr | rol | ror =>
    simp only [exec, execAsl, execLsr, execRol, execRor] at h
    exact shiftInstr_regEffect h
  | tax | tay | txa | tya | tsx | inx | iny | dex | dey | pla | alr | axs =>
    cases h
    refine .advance (.setZN ?_ ?_ ?_ (by simp [writesFlag]))
    · simp [Reg.forall_iff, State.reg, writesReg]
    · simp [State.reg, writesReg]
    · intro f _ _ hf
      simp_all [writesFlag]
  | sbcAlias =>
    cases h
    exact (addToA_regEffect _ s).advance
  | anc =>
    cases h
    refine .advance (.setFlag (.setZN ?_ ?_ ?_ (by simp [writesFlag])) (by simp [writesFlag])
      (by decide) (by decide))
    · simp [Reg.forall_iff, State.reg, writesReg]
    · simp [State.reg, writesReg]
    · simp
  | arr =>
    cases h
    refine .advance (.setFlag (.setFlag (.setZN ?_ ?_ ?_ (by simp [writesFlag])) (by simp [writesFlag])
      (by decide) (by decide)) (by simp [writesFlag]) (by decide) (by decide))
    · simp [Reg.forall_iff, State.reg, writesReg]
    · simp [State.reg, writesReg]
    · simp
  | txs | pha | php | jsr | rts =>
    cases h
    exact .of_sp rfl rfl rfl fun _ _ => rfl
  | plp | rti =>
    cases h
    refine .of_sp rfl rfl rfl fun f hf => ?_
    cases f <;> simp [writesFlag] at hf
  | bcc | bcs | beq | bmi | bne | bpl | bvc | bvs =>
    simp only [exec, execBcc, execBcs, execBeq, execBmi, execBne, execBpl, execBvc, execBvs] at h
    exact (branch_sameRegs h).regEffect
  | jmpInd ptr => exact (execJmpInd_sameRegs h).regEffect
  | clc | sec | cli | sei | cld | sed | clv =>
    cases h
    refine .of_flags (Reg.forall_iff.2 ⟨rfl, rfl, rfl, rfl⟩) fun f hf => ?_
    simp_all [writesFlag]
  | jmp | nop | brk | nopIllegal | skb =>
    cases h
    exact SameRegs.regEffect ⟨Reg.forall_iff.2 ⟨rfl, rfl, rfl, rfl⟩, rfl⟩
  | kil | unknown => cases h

end

/-- Settles O55: the registers' part of `exec_regEffect`. -/
theorem registersChangeOnlyWhereListed : Obligations.RegistersChangeOnlyWhereListed :=
  fun _ _ _ h => (exec_regEffect h).reg

/-- Settles O56: the flags' part of `exec_regEffect`. -/
theorem flagsChangeOnlyWhereListed : Obligations.FlagsChangeOnlyWhereListed :=
  fun _ _ _ h => (exec_regEffect h).flag

/-- Settles O32: Z and N come from the written register, by `exec_regEffect`. -/
theorem everyWriteOfAXYSetsZN : Obligations.EveryWriteOfAXYSetsZN :=
  fun _ _ _ h => (exec_regEffect h).zn

end Sys2Proof.Machine
end

section
/-! O30: the break bits of P between steps. Only PLP and RTI write them, and both leave B1 clear and B2 set. -/

namespace Sys2Proof.Machine

/-- The break bits depend on the flags B1 and B2 only. -/
theorem breakBits_congr {p q : Byte} (h1 : flag q .b1 = flag p .b1) (h2 : flag q .b2 = flag p .b2) :
    breakBits q = breakBits p := by
  rw [breakBits, breakBits, h1, h2]

/-- PLP and RTI are the only instructions that the flag table lists for the break bits. -/
theorem breakBits_not_written {i : Instr} (hplp : i ≠ .plp) (hrti : i ≠ .rti) :
    .b1 ∉ writesFlag i ∧ .b2 ∉ writesFlag i := by
  cases i with
  | plp => exact absurd rfl hplp
  | rti => exact absurd rfl hrti
  | _ => simp [writesFlag]

theorem exec_keeps_breakBits {i : Instr} {s t : State} (h : exec i s = .next t)
    (hs : breakBits s.p = true) : breakBits t.p = true := by
  by_cases hplp : i = .plp
  · subst hplp
    cases h
    exact breakBits_statusPopped _
  by_cases hrti : i = .rti
  · subst hrti
    cases h
    exact breakBits_statusPopped _
  obtain ⟨hb1, hb2⟩ := breakBits_not_written hplp hrti
  have heffect := exec_regEffect h
  exact (breakBits_congr (heffect.flag .b1 hb1) (heffect.flag .b2 hb2)).trans hs

/-- An effect of the callback other than a write of P keeps the break bits; `reset` sets P to 0x24. -/
theorem runHostAct_keeps_breakBits {act : HostAct} {s t : State} (h : runHostAct act s = .ok t)
    (hact : act.writesP = false) (hs : breakBits s.p = true) : breakBits t.p = true := by
  rcases runHostAct_cases h with ⟨_, _, _, _, p, _, _, _, rfl, -, -, -, hp⟩ | ⟨_, _, -, rfl⟩ |
    ⟨_, _, -, rfl⟩ | ⟨_, _, -, rfl⟩ | ⟨_, _, h⟩ | ⟨_, _, h⟩ | rfl
  · exact hp hact ▸ hs
  · exact hs
  · exact hs
  · exact hs
  · exact (busRead_sameRegs h).p ▸ hs
  · exact (busWrite_sameRegs h).p ▸ hs
  · rw [cpuReset_p]
    decide

theorem runHost_keeps_breakBits {s t : State} (h : runHost s = .ok t) (hhost : hostKeepsP s)
    (hs : breakBits s.p = true) : breakBits t.p = true := by
  have hacts : ∀ act ∈ hostCall s, act.writesP = false := fun act hmem => by
    simpa using hostAll_call hhost act hmem
  exact runHostActs_keeps (inv := fun u => breakBits u.p = true)
    (fun act hmem _ _ hu hact => runHostAct_keeps_breakBits hact (hacts act hmem) hu)
    (s := { s with host := s.host.next }) hs h

/-- Settles O30: the call, the fetch and the instruction each keep the break bits, and the callback moves on
by the one call. -/
theorem stepKeepsBreakBits : Obligations.StepKeepsBreakBits := by
  intro s t hs hhost h
  rcases step_cases h with ⟨-, rfl⟩ | ⟨-, s0, i, s1, hcall, hfetch, hexec⟩
  · exact ⟨hs, hhost⟩
  · have hp : s1.p = s0.p := by rw [fetch_effect hfetch]
    have hbits : breakBits s1.p = true := hp ▸ runHost_keeps_breakBits hcall hhost hs
    have hfetched : s1.host = s0.host := by rw [fetch_effect hfetch]
    obtain ⟨-, hcalled⟩ := runHost_cart_host hcall
    have hlater : t.host = s.host.next :=
      ((exec_accesses hexec).ppuFrame.host.trans hfetched).trans hcalled
    exact ⟨exec_keeps_breakBits hexec hbits, hostAll_next hhost hlater⟩

end Sys2Proof.Machine
end

section
/-! O31: what no step writes. -/

namespace Sys2Proof.Machine

/-! ### OAM -/

theorem runHostAct_oam {act : HostAct} {s t : State} (h : runHostAct act s = .ok t)
    (hact : ∀ k v, act ≠ .setOam k v) : t.ppu.oam = s.ppu.oam := by
  rcases runHostAct_cases h with ⟨_, _, _, _, _, _, _, u, rfl, -, -, hoam, -⟩ | ⟨_, _, -, rfl⟩ |
    ⟨_, _, -, rfl⟩ | ⟨k, v, hk, -⟩ | ⟨_, _, h⟩ | ⟨_, _, h⟩ | rfl
  · exact hoam
  · rfl
  · rfl
  · exact absurd hk (hact k v)
  · rw [busRead_effect h]
  · exact (busWrite_effect h).2.1
  · rfl

theorem runHost_oam {s t : State} (h : runHost s = .ok t) (hcall : ∀ k v, .setOam k v ∉ hostCall s) :
    t.ppu.oam = s.ppu.oam :=
  runHostActs_keeps (inv := fun u => u.ppu.oam = s.ppu.oam)
    (fun _ hmem _ _ hu hact => (runHostAct_oam hact fun k v he => hcall k v (he ▸ hmem)).trans hu)
    (s := { s with host := s.host.next }) rfl h

/-! ### The palette cells that R96 folds away -/

/-- The index of one of the four palette cells that no data-port access reaches (R42, R96). -/
def IsPaletteAlias (k : Nat) : Prop := k = 0x10 ∨ k = 0x14 ∨ k = 0x18 ∨ k = 0x1C

theorem palIndex_ne_of_isPaletteAlias {k : Nat} (hk : IsPaletteAlias k) (a : Addr) : k ≠ palIndex a := by
  obtain ⟨-, h10, h14, h18, h1C⟩ := palIndex_lt a
  rcases hk with rfl | rfl | rfl | rfl
  · exact h10.symm
  · exact h14.symm
  · exact h18.symm
  · exact h1C.symm

theorem busWrite_palette_alias {addr : Addr} {v : Byte} {s t : State} (h : busWrite addr v s = .ok t)
    {k : Nat} (hk : IsPaletteAlias k) : t.ppu.palette.read k = s.ppu.palette.read k := by
  by_cases hport : IsDataPort addr
  · rcases busWrite_cases h with ⟨-, rfl⟩ | ⟨-, -, rfl⟩ | ⟨-, -, rfl⟩ | ⟨-, -, rfl⟩ | ⟨-, -, rfl⟩ |
      ⟨-, u, hu, rfl⟩
    · rfl
    · rfl
    · rfl
    · rw [Ppu.writeScroll_palette]
    · rw [Ppu.writeAddr_palette]
    · rcases dataWrite_cases hu with ⟨-, -, _, -, rfl⟩ | ⟨-, -, rfl⟩
      · rfl
      · exact Memory.read_write_other _ v (palIndex_ne_of_isPaletteAlias hk _)
  · rw [(busWrite_arrays_of_not_port h hport).2]

theorem Accesses.palette_alias {accessed : List Addr} {s t : State} (h : Accesses accessed s t) {k : Nat}
    (hk : IsPaletteAlias k) : t.ppu.palette.read k = s.ppu.palette.read k := by
  induction h with
  | refl => rfl
  | tail _ hlast ih =>
    refine Eq.trans ?_ ih
    cases hlast with
    | cpu h => rw [h.ppu]
    | read _ h => rw [busRead_effect h]
    | write _ h => exact busWrite_palette_alias h hk

theorem runHostAct_palette_alias {act : HostAct} {s t : State} (h : runHostAct act s = .ok t) {k : Fin 32}
    (hk : IsPaletteAlias k) (hact : ∀ v, act ≠ .setPalette k v) :
    t.ppu.palette.read k = s.ppu.palette.read k := by
  rcases runHostAct_cases h with ⟨_, _, _, _, _, _, _, u, rfl, -, hpalette, -, -⟩ | ⟨_, _, -, rfl⟩ |
    ⟨j, v, hj, rfl⟩ | ⟨_, _, -, rfl⟩ | ⟨_, _, h⟩ | ⟨_, _, h⟩ | rfl
  · rw [hpalette]
  · rfl
  · exact Memory.read_write_other _ v fun hkj => hact v (Fin.ext hkj ▸ hj)
  · rfl
  · rw [busRead_effect h]
  · exact busWrite_palette_alias h hk
  · rfl

theorem runHost_palette_alias {s t : State} (h : runHost s = .ok t) {k : Fin 32} (hk : IsPaletteAlias k)
    (hcall : ∀ v, .setPalette k v ∉ hostCall s) : t.ppu.palette.read k = s.ppu.palette.read k :=
  runHostActs_keeps (inv := fun u => u.ppu.palette.read k = s.ppu.palette.read k)
    (fun _ hmem _ _ hu hact =>
      (runHostAct_palette_alias hact hk fun v he => hcall v (he ▸ hmem)).trans hu)
    (s := { s with host := s.host.next }) rfl h

/-- A completed fetch leaves the cartridge and the PPU's arrays. -/
theorem fetch_frame {s t : State} {i : Instr} (h : fetch s = .ok (i, t)) :
    t.cart = s.cart ∧ t.ppu.oam = s.ppu.oam ∧ t.ppu.palette = s.ppu.palette := by
  rw [fetch_effect h]
  exact ⟨rfl, rfl, rfl⟩

/-- Settles O31: after the call of the callback only bus accesses follow, and none of them reaches the cartridge,
`oam` or an aliased palette cell. -/
theorem stepNeverWritesRomOamOrAliasCells : Obligations.StepNeverWritesRomOamOrAliasCells := by
  intro s t h
  rcases step_cases h with ⟨-, rfl⟩ | ⟨-, s0, i, s1, hcall, hfetch, hexec⟩
  · exact ⟨rfl, fun _ => rfl, fun _ _ _ => rfl⟩
  · have haccesses := exec_accesses hexec
    have hframe := haccesses.ppuFrame
    obtain ⟨hcart, hoam, hpalette⟩ := fetch_frame hfetch
    refine ⟨hframe.cart.trans (hcart.trans (runHost_cart_host hcall).1),
      fun hcell => hframe.oam.trans (hoam.trans (runHost_oam hcall hcell)), fun k hk hcell => ?_⟩
    have halias : IsPaletteAlias k := by simpa [IsPaletteAlias, Fin.ext_iff] using hk
    rw [haccesses.palette_alias halias, hpalette, runHost_palette_alias hcall halias hcell]

end Sys2Proof.Machine
end

section
/-! O33: I and D are inert. Two states that differ at most in I and D of P stay so, whatever an instruction but PHP does. -/

namespace Sys2Proof.Machine

/-- The state with another status byte. -/
def State.withP (s : State) (q : Byte) : State := { s with p := q }

/-- The two status bytes differ at most in I and D. -/
def SameButID (p q : Byte) : Prop := ∀ f, f ≠ .i → f ≠ .d → flag q f = flag p f

/-- The second state is the first one but for I and D of P. -/
structure IDVariant (s t : State) : Prop where
  eq : t = s.withP t.p
  flags : SameButID s.p t.p

/-- The second answer is the first one but for I and D of P in the next state. -/
inductive IDVariantResult : Result State → Result State → Prop
  | next {s t : State} : IDVariant s t → IDVariantResult (.next s) (.next t)
  | fault (e : Fault) : IDVariantResult (.fault e) (.fault e)
  | refused (r : Refusal) : IDVariantResult (.refused r) (.refused r)

section
variable {s : State} {q : Byte}

/-! ### What the CPU computes -/

theorem SameButID.carryByte {p : Byte} (hq : SameButID p q) : carryByte q = carryByte p := by
  rw [Machine.carryByte, Machine.carryByte, hq .c (by decide) (by decide)]

theorem IDVariant.advance {t : State} (h : IDVariant s t) (n : Nat) :
    IDVariant (advance n s) (advance n t) :=
  ⟨congrArg (Machine.advance n) h.eq, h.flags⟩

theorem setZN_idVariant (v : Byte) {t : State} (h : IDVariant s t) : IDVariant (setZN v s) (setZN v t) where
  eq := congrArg (setZN v) h.eq
  flags f hi hd := by rw [flag_setZN, flag_setZN, h.flags f hi hd]

theorem setFlag_idVariant (g : Flag) (b : Bool) {t : State} (h : IDVariant s t) :
    IDVariant (setFlag g b s) (setFlag g b t) where
  eq := congrArg (setFlag g b) h.eq
  flags f hi hd := by rw [setFlag_p, setFlag_p, flag_putFlag, flag_putFlag, h.flags f hi hd]

theorem compare_idVariant (hq : SameButID s.p q) (r m : Byte) :
    IDVariant (compare r m s) (compare r m (s.withP q)) :=
  setZN_idVariant _ (setFlag_idVariant _ _ ⟨rfl, hq⟩)

/-- The adder reads C and no other flag (R215, R216). -/
theorem addToA_idVariant (hq : SameButID s.p q) (v : Byte) :
    IDVariant (addToA v s) (addToA v (s.withP q)) where
  eq := by
    simp only [addToA, State.withP, hq.carryByte]
    rfl
  flags f hi hd := by
    have hf : flag (s.withP q).p f = flag s.p f := hq f hi hd
    have hcarry : carryByte (s.withP q).p = carryByte s.p := hq.carryByte
    rw [flag_addToA, flag_addToA, hcarry, hf]
    rfl

/-! ### The bus and the shared shapes -/

theorem ppuRegRead_withP (a : Addr) (s : State) (q : Byte) :
    ppuRegRead a (s.withP q) = (ppuRegRead a s).map fun r => (r.1, r.2.withP q) := by
  unfold ppuRegRead
  cases ppuReg a with
  | data =>
    change (dataRead s.cart s.ppu >>= _) = _
    cases dataRead s.cart s.ppu <;> rfl
  | _ => rfl

theorem ppuRegWrite_withP (a : Addr) (v : Byte) (s : State) (q : Byte) :
    ppuRegWrite a v (s.withP q) = (ppuRegWrite a v s).map fun t => t.withP q := by
  unfold ppuRegWrite
  cases ppuReg a with
  | data =>
    change (dataWrite s.cart v s.ppu >>= _) = _
    cases dataWrite s.cart v s.ppu <;> rfl
  | _ => rfl

/-- No bus read depends on P. -/
theorem busRead_withP (a : Addr) (s : State) (q : Byte) :
    busRead a (s.withP q) = (busRead a s).map fun r => (r.1, r.2.withP q) := by
  unfold busRead
  split
  · rfl
  · split
    · exact ppuRegRead_withP a s q
    · split <;> rfl

/-- No bus write depends on P. -/
theorem busWrite_withP (a : Addr) (v : Byte) (s : State) (q : Byte) :
    busWrite a v (s.withP q) = (busWrite a v s).map fun t => t.withP q := by
  unfold busWrite
  split
  · rfl
  · split
    · exact ppuRegWrite_withP a v s q
    · rfl

theorem resolve_withP (m : Operand) (s : State) (q : Byte) : resolve m (s.withP q) = resolve m s := by
  cases m <;> rfl

theorem readOperand_withP (m : Operand) (s : State) (q : Byte) :
    readOperand m (s.withP q) = (readOperand m s).map fun r => (r.1, r.2.withP q) := by
  cases m with
  | acc | imm => rfl
  | _ => exact busRead_withP _ s q

theorem readInstr_idVariant {m : Operand} {f : Byte → State → State} (hq : SameButID s.p q)
    (hf : ∀ v u, SameButID u.p q → IDVariant (f v u) (f v (u.withP q))) :
    IDVariantResult (readInstr m f s) (readInstr m f (s.withP q)) := by
  unfold readInstr
  rw [readOperand_withP]
  cases hr : readOperand m s with
  | error e => exact .fault e
  | ok r =>
    obtain ⟨v, s1⟩ := r
    have hq' : SameButID s1.p q := (readOperand_sameRegs hr).p ▸ hq
    exact .next ((hf v s1 hq').advance _)

theorem storeInstr_idVariant {m : Operand} {v : Addr → Byte} (hq : SameButID s.p q) :
    IDVariantResult (storeInstr m v s) (storeInstr m v (s.withP q)) := by
  unfold storeInstr
  rw [resolve_withP]
  cases resolve m s with
  | error e => exact .fault e
  | ok ea =>
    simp only [bind, Except.bind]
    rw [busWrite_withP]
    cases hw : busWrite ea (v ea) s with
    | error e => exact .fault e
    | ok s1 =>
      have hq' : SameButID s1.p q := (busWrite_sameRegs hw).p ▸ hq
      exact .next (IDVariant.advance ⟨rfl, hq'⟩ _)

theorem modifyInstr_idVariant {m : Operand} {r : Byte → Byte} {g : Byte → Byte → State → State}
    (hq : SameButID s.p q)
    (hg : ∀ old res u, SameButID u.p q → IDVariant (g old res u) (g old res (u.withP q))) :
    IDVariantResult (modifyInstr m r g s) (modifyInstr m r g (s.withP q)) := by
  unfold modifyInstr
  rw [resolve_withP]
  cases resolve m s with
  | error e => exact .fault e
  | ok ea =>
    simp only [bind, Except.bind]
    rw [busRead_withP]
    cases hr : busRead ea s with
    | error e => exact .fault e
    | ok a =>
      obtain ⟨old, s1⟩ := a
      simp only [Except.map]
      rw [busWrite_withP]
      cases hw : busWrite ea (r old) s1 with
      | error e => exact .fault e
      | ok s2 =>
        have hp := (busRead_sameRegs hr).trans (busWrite_sameRegs hw)
        exact .next ((hg old (r old) s2 (hp.p ▸ hq)).advance _)

theorem shiftInstr_idVariant {m : Operand} {r : Byte → Byte} {out : Byte → Bool} (hq : SameButID s.p q) :
    IDVariantResult (shiftInstr m r out s) (shiftInstr m r out (s.withP q)) := by
  cases m with
  | acc => exact .next (.advance (setZN_idVariant _ (setFlag_idVariant _ _ ⟨rfl, hq⟩)) 1)
  | _ =>
    simp only [shiftInstr]
    exact modifyInstr_idVariant hq fun _ _ _ hu => setZN_idVariant _ (setFlag_idVariant _ _ ⟨rfl, hu⟩)

/-- A branch whose condition agrees in both states. -/
theorem branch_idVariant {taken : Bool} {d : Byte} (hq : SameButID s.p q) :
    IDVariantResult (branch taken d s) (branch taken d (s.withP q)) := by
  cases taken <;> exact .next ⟨rfl, hq⟩

theorem execJmpInd_idVariant (ptr : Addr) (hq : SameButID s.p q) :
    IDVariantResult (execJmpInd ptr s) (execJmpInd ptr (s.withP q)) := by
  unfold execJmpInd
  rw [busRead_withP]
  cases hl : busRead ptr s with
  | error e => exact .fault e
  | ok a =>
    obtain ⟨l, s1⟩ := a
    simp only [bind, Except.bind, Except.map]
    rw [busRead_withP]
    cases hh : busRead (if loByte ptr == 0xFF then ptr &&& 0xFF00 else ptr + 1) s1 with
    | error e => exact .fault e
    | ok b =>
      obtain ⟨h, s2⟩ := b
      have hp := (busRead_sameRegs hl).trans (busRead_sameRegs hh)
      exact .next ⟨rfl, fun f hi hd => (hq f hi hd).trans (by rw [← hp.p])⟩

/-! ### Every instruction but PHP -/

theorem exec_idVariant {i : Instr} (hi : i ≠ .php) (hq : SameButID s.p q) :
    IDVariantResult (exec i s) (exec i (s.withP q)) := by
  have hflag : ∀ f, f ≠ .i → f ≠ .d → flag (s.withP q).p f = flag s.p f := hq
  have hcarry : carryByte (s.withP q).p = carryByte s.p := hq.carryByte
  cases i with
  | php => exact absurd rfl hi
  | lda | ldx | ldy | and | ora | eor | lax | las =>
    simp only [exec, execLda, execLdx, execLdy, execAnd, execOra, execEor, execLax, execLas]
    exact readInstr_idVariant hq fun _ _ hu => setZN_idVariant _ ⟨rfl, hu⟩
  | adc | sbc =>
    simp only [exec, execAdc, execSbc]
    exact readInstr_idVariant hq fun _ _ hu => addToA_idVariant hu _
  | cmp | cpx | cpy =>
    simp only [exec, execCmp, execCpx, execCpy]
    exact readInstr_idVariant hq fun _ _ hu => compare_idVariant hu _ _
  | bit =>
    simp only [exec, execBit]
    exact readInstr_idVariant hq fun _ _ hu =>
      setFlag_idVariant _ _ (setFlag_idVariant _ _ (setFlag_idVariant _ _ ⟨rfl, hu⟩))
  | ign =>
    simp only [exec, execIgn]
    exact readInstr_idVariant hq fun _ _ hu => ⟨rfl, hu⟩
  | sta | stx | sty | sax | ahx | shx | shy =>
    simp only [exec, execSta, execStx, execSty, execSax, execAhx, execShx, execShy]
    exact storeInstr_idVariant hq
  | tas => exact storeInstr_idVariant (s := { s with sp := s.a &&& s.x }) hq
  | inc | dec =>
    simp only [exec, execInc, execDec]
    exact modifyInstr_idVariant hq fun _ _ _ hu => setZN_idVariant _ ⟨rfl, hu⟩
  | dcp =>
    simp only [exec, execDcp]
    exact modifyInstr_idVariant hq fun _ _ _ hu => compare_idVariant hu _ _
  | isc =>
    simp only [exec, execIsc]
    exact modifyInstr_idVariant hq fun _ _ _ hu => addToA_idVariant hu _
  | asl | lsr =>
    simp only [exec, execAsl, execLsr]
    exact shiftInstr_idVariant hq
  | rol | ror =>
    simp only [exec, execRol, execRor, hcarry]
    exact shiftInstr_idVariant hq
  | tax | tay | txa | tya | tsx | inx | iny | dex | dey | pla =>
    exact .next (.advance (setZN_idVariant _ ⟨rfl, hq⟩) 1)
  | sbcAlias =>
    simp only [exec, execSbcAlias]
    exact .next ((addToA_idVariant hq _).advance 2)
  | anc => exact .next (.advance (setFlag_idVariant _ _ (setZN_idVariant _ ⟨rfl, hq⟩)) 2)
  | alr | axs => exact .next (.advance (setZN_idVariant _ (setFlag_idVariant _ _ ⟨rfl, hq⟩)) 2)
  | arr =>
    simp only [exec, execArr, hcarry]
    exact .next (.advance (setFlag_idVariant _ _ (setFlag_idVariant _ _ (setZN_idVariant _ ⟨rfl, hq⟩))) 2)
  | bcc | bcs | beq | bmi | bne | bpl | bvc | bvs =>
    simp only [exec, execBcc, execBcs, execBeq, execBmi, execBne, execBpl, execBvc, execBvs, hflag, ne_eq,
      reduceCtorEq, not_false_eq_true]
    exact branch_idVariant hq
  | clc | sec | cli | sei | cld | sed | clv => exact .next (.advance (setFlag_idVariant _ _ ⟨rfl, hq⟩) 1)
  | plp | rti => exact .next ⟨rfl, fun _ _ _ => rfl⟩
  | jmpInd ptr => exact execJmpInd_idVariant ptr hq
  | txs | pha | jsr | rts | jmp | nop | brk | nopIllegal | skb => exact .next ⟨rfl, hq⟩
  | kil | unknown => exact .fault _

end

/-- What O33 says of two answers. -/
theorem IDVariantResult.outcomes {r r' : Result State} (h : IDVariantResult r r') :
    (∀ t, r = .next t → ∃ q, r' = .next { t with p := q } ∧ SameButID t.p q) ∧
      (∀ e, r = .fault e → r' = .fault e) ∧ (∀ e, r = .refused e → r' = .refused e) := by
  cases h with
  | @next s t h =>
    refine ⟨fun u hu => ?_, fun _ he => (nomatch he), fun _ he => (nomatch he)⟩
    cases hu
    exact ⟨t.p, congrArg Host.Outcome.next h.eq, h.flags⟩
  | fault e => exact ⟨fun _ ht => (nomatch ht), fun _ he => he, fun _ hr => (nomatch hr)⟩
  | refused e => exact ⟨fun _ ht => (nomatch ht), fun _ hf => (nomatch hf), fun _ he => he⟩

/-- Settles O33: the answers of an instruction in a state and in its variant are variants. -/
theorem interruptAndDecimalFlagsAreInert : Obligations.InterruptAndDecimalFlagsAreInert :=
  fun _ _ _ hi hq => (exec_idVariant hi hq).outcomes

end Sys2Proof.Machine
end

section
/-! O5, O7: a step is the instruction whose encoding stands at PC, when the machine is running. -/

namespace Sys2Proof

/-! ### An instruction with other operand bytes -/

/-- The operand of the same form with the operand bytes `b1`, `b2` (R121, R126). -/
def Operand.withBytes (b1 b2 : Byte) : Operand → Operand
  | .acc => .acc
  | .imm _ => .imm b1
  | .zp _ => .zp b1
  | .zpx _ => .zpx b1
  | .zpy _ => .zpy b1
  | .abs _ => .abs (Machine.word b2 b1)
  | .absx _ => .absx (Machine.word b2 b1)
  | .absy _ => .absy (Machine.word b2 b1)
  | .indx _ => .indx b1
  | .indy _ => .indy b1

/-- The instruction with the same opcode byte and the operand bytes `b1`, `b2`. -/
def Instr.withBytes (b1 b2 : Byte) : Instr → Instr
  | .lda m => .lda (m.withBytes b1 b2)
  | .ldx m => .ldx (m.withBytes b1 b2)
  | .ldy m => .ldy (m.withBytes b1 b2)
  | .sta m => .sta (m.withBytes b1 b2)
  | .stx m => .stx (m.withBytes b1 b2)
  | .sty m => .sty (m.withBytes b1 b2)
  | .adc m => .adc (m.withBytes b1 b2)
  | .sbc m => .sbc (m.withBytes b1 b2)
  | .and m => .and (m.withBytes b1 b2)
  | .ora m => .ora (m.withBytes b1 b2)
  | .eor m => .eor (m.withBytes b1 b2)
  | .bit m => .bit (m.withBytes b1 b2)
  | .cmp m => .cmp (m.withBytes b1 b2)
  | .cpx m => .cpx (m.withBytes b1 b2)
  | .cpy m => .cpy (m.withBytes b1 b2)
  | .inc m => .inc (m.withBytes b1 b2)
  | .dec m => .dec (m.withBytes b1 b2)
  | .asl m => .asl (m.withBytes b1 b2)
  | .lsr m => .lsr (m.withBytes b1 b2)
  | .rol m => .rol (m.withBytes b1 b2)
  | .ror m => .ror (m.withBytes b1 b2)
  | .ign opc m => .ign opc (m.withBytes b1 b2)
  | .lax m => .lax (m.withBytes b1 b2)
  | .sax m => .sax (m.withBytes b1 b2)
  | .dcp m => .dcp (m.withBytes b1 b2)
  | .isc m => .isc (m.withBytes b1 b2)
  | .ahx m => .ahx (m.withBytes b1 b2)
  | .bcc _ => .bcc b1
  | .bcs _ => .bcs b1
  | .beq _ => .beq b1
  | .bmi _ => .bmi b1
  | .bne _ => .bne b1
  | .bpl _ => .bpl b1
  | .bvc _ => .bvc b1
  | .bvs _ => .bvs b1
  | .skb opc _ => .skb opc b1
  | .anc opc _ => .anc opc b1
  | .alr _ => .alr b1
  | .arr _ => .arr b1
  | .axs _ => .axs b1
  | .sbcAlias _ => .sbcAlias b1
  | .jsr _ => .jsr (Machine.word b2 b1)
  | .jmp _ => .jmp (Machine.word b2 b1)
  | .jmpInd _ => .jmpInd (Machine.word b2 b1)
  | .las _ => .las (Machine.word b2 b1)
  | .shx _ => .shx (Machine.word b2 b1)
  | .shy _ => .shy (Machine.word b2 b1)
  | .tas _ => .tas (Machine.word b2 b1)
  | i => i

theorem word_of_wordBytes {w : Addr} {b1 b2 : Byte} (h : wordBytes w <+: [b1, b2]) :
    Machine.word b2 b1 = w := by
  simp only [wordBytes, List.cons_prefix_cons] at h
  obtain ⟨rfl, rfl, -⟩ := h
  exact Machine.word_hiByte_loByte w

/-- An operand with its own bytes is itself. -/
theorem Operand.withBytes_of_bytes {m : Operand} {b1 b2 : Byte} (h : m.bytes <+: [b1, b2]) :
    m.withBytes b1 b2 = m := by
  cases m with
  | acc => rfl
  | imm | zp | zpx | zpy | indx | indy =>
    obtain ⟨rfl, -⟩ := List.cons_prefix_cons.1 h
    rfl
  | abs | absx | absy => rw [withBytes, word_of_wordBytes h]

/-- An instruction with its own operand bytes is itself. -/
theorem Instr.withBytes_of_operandBytes {i : Instr} {b1 b2 : Byte} (h : i.operandBytes <+: [b1, b2]) :
    i.withBytes b1 b2 = i := by
  cases i with
  | lda | ldx | ldy | sta | stx | sty | adc | sbc | and | ora | eor | bit | cmp | cpx | cpy | inc | dec | asl
  | lsr | rol | ror | ign | lax | sax | dcp | isc | ahx => rw [withBytes, Operand.withBytes_of_bytes h]
  | bcc | bcs | beq | bmi | bne | bpl | bvc | bvs | skb | anc | alr | arr | axs | sbcAlias =>
    obtain ⟨rfl, -⟩ := List.cons_prefix_cons.1 h
    rfl
  | jsr | jmp | jmpInd | las | shx | shy | tas => rw [withBytes, word_of_wordBytes h]
  | _ => rfl

/-- Every instruction has the operand bytes, and so the length, of one of the operand forms (R121). -/
theorem Instr.exists_operand (i : Instr) (b1 b2 : Byte) :
    ∃ m : Operand, i.operandBytes = m.bytes ∧ i.length = m.length ∧
      (i.withBytes b1 b2).length = (m.withBytes b1 b2).length := by
  cases i with
  | lda m | ldx m | ldy m | sta m | stx m | sty m | adc m | sbc m | and m | ora m | eor m | bit m | cmp m
  | cpx m | cpy m | inc m | dec m | asl m | lsr m | rol m | ror m | ign _ m | lax m | sax m | dcp m | isc m
  | ahx m => exact ⟨m, rfl, rfl, rfl⟩
  | bcc v | bcs v | beq v | bmi v | bne v | bpl v | bvc v | bvs v | skb _ v | anc _ v | alr v | arr v | axs v
  | sbcAlias v => exact ⟨.imm v, rfl, rfl, rfl⟩
  | jsr w | jmp w | jmpInd w | las w | shx w | shy w | tas w => exact ⟨.abs w, rfl, rfl, rfl⟩
  | _ => exact ⟨.acc, rfl, rfl, rfl⟩

theorem Instr.length_withBytes (i : Instr) (b1 b2 : Byte) : (i.withBytes b1 b2).length = i.length := by
  obtain ⟨m, -, hlength, hwith⟩ := i.exists_operand b1 b2
  rw [hlength, hwith]
  cases m <;> rfl

theorem Instr.operandBytes_length (i : Instr) :
    i.operandBytes.length = i.length - 1 ∧ i.operandBytes.length ≤ 2 := by
  obtain ⟨m, hbytes, hlength, -⟩ := i.exists_operand 0x00 0x00
  rw [hbytes, hlength]
  cases m <;> simp [Operand.bytes, Operand.length, wordBytes]

/-- The IGN bytes stand in the opcode map with their operand form (R302). -/
theorem instrAt_of_mem_ignBytes {opc b1 b2 : Byte} {m : Operand} (h : opc ∈ ignBytes m) :
    instrAt opc b1 b2 = .ign opc (m.withBytes b1 b2) := by
  cases m with
  | acc | imm | zpy | absy | indx | indy => cases h
  | abs =>
    cases List.mem_singleton.1 h
    rfl
  | zp | zpx | absx =>
    simp only [ignBytes, List.mem_cons, List.not_mem_nil, or_false] at h
    casesm* _ ∨ _ <;> subst h <;> rfl

/-- A well-formed instruction stands in the opcode map at its opcode byte, with any operand bytes (R123 to R125). -/
theorem instrAt_of_wf {i : Instr} (h : i.wf = true) :
    ∃ opc, i.opcode = some opc ∧ ∀ b1 b2, instrAt opc b1 b2 = i.withBytes b1 b2 := by
  cases i with
  | lda m | ldx m | ldy m | sta m | stx m | sty m | adc m | sbc m | and m | ora m | eor m | bit m | cmp m
  | cpx m | cpy m | inc m | dec m | asl m | lsr m | rol m | ror m | lax m | sax m | dcp m | isc m
  | ahx m => cases m <;> cases h <;> exact ⟨_, rfl, fun _ _ => rfl⟩
  | ign opc m => exact ⟨opc, rfl, fun _ _ => instrAt_of_mem_ignBytes (List.contains_iff_mem.1 h)⟩
  | nopIllegal opc | skb opc | anc opc | kil opc | unknown opc =>
    refine ⟨opc, rfl, fun b1 b2 => ?_⟩
    simp only [Instr.wf, List.contains_iff_mem, nopIllegalBytes, skbBytes, ancBytes, kilBytes, unassignedBytes,
      List.cons_append, List.nil_append, List.mem_cons, List.not_mem_nil, or_false] at h
    casesm* _ ∨ _ <;> subst h <;> rfl
  | _ => exact ⟨_, rfl, fun _ _ => rfl⟩

end Sys2Proof

namespace Sys2Proof.Machine

theorem operandReads_withBytes (i : Instr) (b1 b2 p : Byte) :
    operandReads (i.withBytes b1 b2) p = operandReads i p := by
  have hlength := congrArg (· - 1) (i.length_withBytes b1 b2)
  cases i with
  | skb | bcc | bcs | beq | bmi | bne | bpl | bvc | bvs => rfl
  | _ => exact hlength

/-- A branch reads its displacement if it is taken, and does not depend on it otherwise (R260, D27). -/
theorem branch_of_not_taken {taken : Bool} (h : taken = false) (d d' : Byte) (s : State) :
    branch taken d s = branch taken d' s := by
  rw [h]
  rfl

/-- An instruction reads all of its operand bytes, unless it is SKB or a branch that is not taken. -/
theorem operandReads_cases (i : Instr) (s : State) :
    operandReads i s.p = i.operandBytes.length ∨
      (operandReads i s.p = 0 ∧ ∀ b1 b2, exec (i.withBytes b1 b2) s = exec i s) := by
  cases i with
  | skb => exact .inr ⟨rfl, fun _ _ => rfl⟩
  | bcc | bne | bpl | bvc =>
    simp only [operandReads]
    split
    · rename_i hflag
      exact .inr ⟨rfl, fun _ _ => branch_of_not_taken (by rw [hflag]; rfl) _ _ s⟩
    · exact .inl rfl
  | bcs | beq | bmi | bvs =>
    simp only [operandReads]
    split
    · exact .inl rfl
    · rename_i hflag
      exact .inr ⟨rfl, fun _ _ => branch_of_not_taken (Bool.eq_false_of_not_eq_true hflag) _ _ s⟩
  | _ => exact .inl (Instr.operandBytes_length _).1.symm

theorem busRead_of_peek {addr : Addr} {s : State} {b : Byte} (h : peek addr s = some b) :
    busRead addr s = .ok (b, s) := by
  simp only [peek] at h
  split at h
  · rename_i hram
    cases h
    rw [busRead, if_pos hram]
  · rename_i hram
    split at h
    · rename_i hrom
      cases h
      rw [busRead, if_neg hram, if_neg (by bv_omega), if_pos hrom]
    · cases h

/-- With an encoding at PC onwards, the fetch has no effect and answers an instruction with its meaning. -/
theorem fetch_of_peek {i : Instr} {s : State} (hwf : i.wf = true)
    (hbytes : ∀ k b, (encode i)[k]? = some b → peek (s.pc + BitVec.ofNat 16 k) s = some b) :
    ∃ j, fetch s = .ok (j, s) ∧ exec j s = exec i s := by
  obtain ⟨opc, hopc, hinstr⟩ := instrAt_of_wf hwf
  have hencode : encode i = opc :: i.operandBytes := by rw [encode, hopc]
  have hread : busRead s.pc s = .ok (opc, s) := busRead_of_peek (by simpa [hencode] using hbytes 0 opc)
  have hreads : operandReads (instrAt opc 0 0) s.p = operandReads i s.p := by
    rw [hinstr, operandReads_withBytes]
  have hoperand : ∀ k b, i.operandBytes[k]? = some b →
      busRead (s.pc + BitVec.ofNat 16 (k + 1)) s = .ok (b, s) := fun k b hk =>
    busRead_of_peek (hbytes (k + 1) b (by rw [hencode]; exact hk))
  simp only [fetch, hread, hreads, bind, Except.bind]
  rcases operandReads_cases i s with hall | ⟨hnone, hexec⟩
  · rw [hall]
    have hsame : ∀ {b1 b2}, i.operandBytes <+: [b1, b2] → exec (instrAt opc b1 b2) s = exec i s :=
      fun h => by rw [hinstr, Instr.withBytes_of_operandBytes h]
    match hops : i.operandBytes with
    | [] => exact ⟨_, rfl, hsame (by simp [hops])⟩
    | [b1] =>
      have h1 : busRead (s.pc + 1) s = .ok (b1, s) := hoperand 0 b1 (by simp [hops])
      simp only [List.length_singleton, h1]
      exact ⟨_, rfl, hsame (by simp [hops])⟩
    | [b1, b2] =>
      have h1 : busRead (s.pc + 1) s = .ok (b1, s) := hoperand 0 b1 (by simp [hops])
      have h2 : busRead (s.pc + 2) s = .ok (b2, s) := hoperand 1 b2 (by simp [hops])
      simp only [List.length_cons, List.length_nil, h1, h2]
      exact ⟨_, rfl, hsame (by simp [hops])⟩
    | _ :: _ :: _ :: _ =>
      have hle := i.operandBytes_length.2
      simp [hops] at hle
  · rw [hnone]
    exact ⟨_, rfl, by rw [hinstr, hexec]⟩

/-- Settles O5: the fetch of a stored encoding changes nothing, and what it answers means the same. -/
theorem stepRunsDecodedInstruction : Obligations.StepRunsDecodedInstruction := by
  intro s i hrun hhost hwf hbytes
  obtain ⟨j, hfetch, hexec⟩ := fetch_of_peek hwf hbytes
  rw [step_of_fetch_ok hrun (runHost_identity hhost) hfetch, hexec]

theorem step_of_halted {s : State} (h : s.run = .halted) : step s = .next s := by
  simp only [step, h]

theorem step_of_fatal {s : State} {f : Fault} (h : s.run = .fatal f) : step s = .fault f := by
  simp only [step, h]

/-- Settles O7, by the two answers of a step outside Running. -/
theorem noStepIsTakenOutsideRunning : Obligations.NoStepIsTakenOutsideRunning :=
  fun _ => ⟨step_of_halted, fun _ => step_of_fatal⟩

end Sys2Proof.Machine
end

section
/-! O9, O24: the bytes of an instruction and of a word are read one after another, and the first fatal ends the
access. -/

namespace Sys2Proof.Machine

theorem fetch_of_opcode_error {s : State} {f : Fault} (h : busRead s.pc s = .error f) :
    fetch s = .error f := by
  rw [fetch, h]
  rfl

theorem fetch_of_first_operand_error {s s1 : State} {opc : Byte} {f : Fault}
    (hopc : busRead s.pc s = .ok (opc, s1)) (hreads : 1 ≤ operandReads (instrAt opc 0 0) s.p)
    (h : busRead (s.pc + 1) s1 = .error f) : fetch s = .error f := by
  refine bind_error.2 (.inr ⟨_, hopc, ?_⟩)
  dsimp only
  match operandReads (instrAt opc 0 0) s.p, hreads with
  | 1, _ | _ + 2, _ => exact bind_error.2 (.inl h)

theorem fetch_of_second_operand_error {s s1 s2 : State} {opc b1 : Byte} {f : Fault}
    (hopc : busRead s.pc s = .ok (opc, s1)) (hreads : 2 ≤ operandReads (instrAt opc 0 0) s.p)
    (hfirst : busRead (s.pc + 1) s1 = .ok (b1, s2)) (h : busRead (s.pc + 2) s2 = .error f) :
    fetch s = .error f := by
  refine bind_error.2 (.inr ⟨_, hopc, ?_⟩)
  dsimp only
  match operandReads (instrAt opc 0 0) s.p, hreads with
  | _ + 2, _ => exact bind_error.2 (.inr ⟨_, hfirst, bind_error.2 (.inl h)⟩)

/-- Settles O9: the identity leaves the state, so the step's fault is that of its fetch. -/
theorem fetchFatalsEndTheStep : Obligations.FetchFatalsEndTheStep := by
  intro s hrun hhost
  have hstep : ∀ {f}, fetch s = .error f → step s = .fault f :=
    step_of_fetch_error hrun (runHost_identity hhost)
  exact ⟨fun f h => hstep (fetch_of_opcode_error h), fun opc s1 hopc =>
    ⟨fun f hreads h => hstep (fetch_of_first_operand_error hopc hreads h),
      fun b1 s2 f hreads hfirst h => hstep (fetch_of_second_operand_error hopc hreads hfirst h)⟩⟩

/-- Settles O24: a word access is the bind of its two byte accesses. -/
theorem wordReadIsTwoByteReads : Obligations.WordReadIsTwoByteReads := by
  intro addr w s
  refine ⟨fun l s1 h s2 hlow hhigh => bind_ok.2 ⟨_, hlow, bind_ok.2 ⟨_, hhigh, rfl⟩⟩,
    fun f hlow => bind_error.2 (.inl hlow),
    fun l s1 f hlow hhigh => bind_error.2 (.inr ⟨_, hlow, bind_error.2 (.inl hhigh)⟩),
    fun s1 hlow => ?_, fun f hlow => bind_error.2 (.inl hlow)⟩
  rw [busWriteWord, loByte, hlow]
  rfl

end Sys2Proof.Machine
end

section
/-! O57: a byte of CPU memory changes only at the addresses an instruction stores to. -/

namespace Sys2Proof.Machine

/-- `Peek` depends on the cell of `cpu_ram` behind the address and on the cartridge only (R108). -/
theorem peek_congr {a : Addr} {s t : State} (hcart : t.cart = s.cart)
    (hram : a ≤ 0x1FFF → ramRead a t = ramRead a s) : peek a t = peek a s := by
  simp only [peek, hcart]
  split
  · rename_i ha
    rw [hram ha]
  · rfl

theorem RamWrites.read_other {stored : List Addr} {m n : Memory} (h : RamWrites stored m n) {a : Addr}
    (ha : a ≤ 0x1FFF) (hother : ∀ b ∈ stored, ¬ SameByte a b) :
    n.read (ramIndex a) = m.read (ramIndex a) := by
  induction h with
  | refl => rfl
  | tail _ hlast ih =>
    obtain ⟨_, v, hb, hb_ram⟩ := hlast
    have hcell : ramIndex a ≠ ramIndex _ := fun he => hother _ hb (.inr ⟨ha, hb_ram, he⟩)
    exact (Memory.read_write_other _ v hcell).trans ih

/-- Settles O57: `exec_ramWrites` names the cells written, and no instruction changes the cartridge. -/
theorem memoryChangesOnlyWhereStored : Obligations.MemoryChangesOnlyWhereStored :=
  fun _ _ _ h _ hother =>
    peek_congr (exec_accesses h).ppuFrame.cart fun ha => (exec_ramWrites h).read_other ha hother

end Sys2Proof.Machine
end

section
/-! What a bus access answers in each region of the CPU's address space (R61 to R63). -/

namespace Sys2Proof.Machine

variable {addr : Addr} {s : State}

/-- The regions of R61's map. -/
theorem addr_region (addr : Addr) :
    addr ≤ 0x1FFF ∨ InPpu addr ∨ (0x4000 ≤ addr ∧ addr ≤ 0x7FFF) ∨ 0x8000 ≤ addr := by
  unfold InPpu
  bv_omega

theorem busRead_ram (h : addr ≤ 0x1FFF) : busRead addr s = .ok (ramRead addr s, s) :=
  if_pos h

theorem busRead_ppu (h : InPpu addr) : busRead addr s = ppuRegRead addr s := by
  obtain ⟨hlow, hhigh⟩ := h
  rw [busRead, if_neg (by bv_omega), if_pos hhigh]

theorem busRead_unmapped (h : 0x4000 ≤ addr) (h' : addr ≤ 0x7FFF) :
    busRead addr s = .error (.busReadViolation addr) := by
  rw [busRead, if_neg (by bv_omega), if_neg (by bv_omega), if_neg (by bv_omega), raiseFatal]

theorem busRead_rom (h : 0x8000 ≤ addr) : busRead addr s = .ok (prgRead s.cart addr, s) := by
  rw [busRead, if_neg (by bv_omega), if_neg (by bv_omega), if_pos h]

theorem busWrite_ram {v : Byte} (h : addr ≤ 0x1FFF) : busWrite addr v s = .ok (ramWrite addr v s) :=
  if_pos h

theorem busWrite_ppu {v : Byte} (h : InPpu addr) : busWrite addr v s = ppuRegWrite addr v s := by
  obtain ⟨hlow, hhigh⟩ := h
  rw [busWrite, if_neg (by bv_omega), if_pos hhigh]

theorem busWrite_above_ppu {v : Byte} (h : 0x4000 ≤ addr) :
    busWrite addr v s = .error (.busWriteViolation addr) := by
  rw [busWrite, if_neg (by bv_omega), if_neg (by bv_omega), raiseFatal]

/-- Off the data port a bus read changes nothing, or it is the fatal with the address itself. -/
theorem busRead_off_port (hport : ¬ IsDataPort addr) :
    (∃ v, busRead addr s = .ok (v, s)) ∨ busRead addr s = .error (.busReadViolation addr) := by
  rcases addr_region addr with hram | hppu | ⟨hlow, hhigh⟩ | hrom
  · exact .inl ⟨_, busRead_ram hram⟩
  · rw [busRead_ppu hppu, ppuRegRead]
    cases hreg : ppuReg addr with
    | status => exact .inl ⟨_, rfl⟩
    | data => exact absurd ⟨hppu, hreg⟩ hport
    | ctrl | mask | oamAddr | oamData | scroll | addr => exact .inr rfl
  · exact .inr (busRead_unmapped hlow hhigh)
  · exact .inl ⟨_, busRead_rom hrom⟩

/-- Off the data port a bus write completes, or it is the fatal with the address itself. -/
theorem busWrite_off_port {v : Byte} (hport : ¬ IsDataPort addr) :
    (∃ t, busWrite addr v s = .ok t) ∨ busWrite addr v s = .error (.busWriteViolation addr) := by
  rcases addr_region addr with hram | hppu | ⟨hlow, -⟩ | hrom
  · exact .inl ⟨_, busWrite_ram hram⟩
  · rw [busWrite_ppu hppu, ppuRegWrite]
    cases hreg : ppuReg addr with
    | ctrl | mask | scroll | addr => exact .inl ⟨_, rfl⟩
    | data => exact absurd ⟨hppu, hreg⟩ hport
    | status | oamAddr | oamData => exact .inr rfl
  · exact .inr (busWrite_above_ppu hlow)
  · exact .inr (busWrite_above_ppu (by bv_omega))

/-! ### The data port as seen from the bus -/

theorem busRead_port (h : IsDataPort addr) :
    busRead addr s = (dataRead s.cart s.ppu).map fun q => (q.1, { s with ppu := q.2 }) := by
  rw [busRead_ppu h.1, ppuRegRead, h.2]
  cases dataRead s.cart s.ppu <;> rfl

theorem busWrite_port {v : Byte} (h : IsDataPort addr) :
    busWrite addr v s = (dataWrite s.cart v s.ppu).map fun u => { s with ppu := u } := by
  rw [busWrite_ppu h.1, ppuRegWrite, h.2]
  cases dataWrite s.cart v s.ppu <;> rfl

end Sys2Proof.Machine
end

section
/-! O13, O23: storage in the CPU's address space. -/

namespace Sys2Proof.Machine

/-- The mask 0x07FF is the remainder modulo 2,048 (R66). -/
theorem ramIndex_eq_mod (addr : Addr) : ramIndex addr = addr.toNat % 2048 := by
  rw [ramIndex, BitVec.toNat_and]
  exact Nat.and_two_pow_sub_one_eq_mod _ 11

/-- Settles O13: both accesses reach the cell `addr % 2048`, and a canonical array reads back. -/
theorem ramCellThroughItsMirrors : Obligations.RamCellThroughItsMirrors := by
  intro s a v ha
  have hread : ∀ {b : Addr} (t : State), b ≤ 0x1FFF →
      busRead b t = .ok (t.cpuRam.read (b.toNat % 2048), t) := fun t hb => by
    rw [busRead_ram hb, ramRead, ramIndex_eq_mod]
  have hwrite : busWrite a v s = .ok { s with cpuRam := s.cpuRam.write (a.toNat % 2048) v } := by
    rw [busWrite_ram ha, ramWrite, ramIndex_eq_mod]
  refine ⟨hread s ha, hwrite, fun hwf t ht b hb => ?_⟩
  cases hwrite.symm.trans ht
  rw [hread _ hb]
  split
  · rename_i hcell
    rw [hcell, Memory.read_write_same hwf]
  · rename_i hcell
    rw [Memory.read_write_other _ v hcell]

/-- The offset into PRG ROM, modulo 16,384 with one bank (R98). -/
theorem prgIndex_eq {addr : Addr} (h : 0x8000 ≤ addr) :
    prgIndex .two addr = addr.toNat - 0x8000 ∧ prgIndex .one addr = (addr.toNat - 0x8000) % 16384 := by
  have hoff : (addr - 0x8000).toNat = addr.toNat - 0x8000 := BitVec.toNat_sub_of_le h
  refine ⟨hoff, ?_⟩
  rw [prgIndex, BitVec.toNat_and, hoff]
  exact Nat.and_two_pow_sub_one_eq_mod _ 14

/-- Settles O23, by the index of PRG ROM; 16 KiB below is the same index with one bank. -/
theorem prgRomIsReadOnlyAndMirrored : Obligations.PrgRomIsReadOnlyAndMirrored := by
  intro addr v s haddr
  refine ⟨fun htwo => ?_, fun hone => ⟨?_, fun hupper => ?_⟩, busWrite_above_ppu (by bv_omega)⟩
  · rw [busRead_rom haddr, prgRead, htwo, (prgIndex_eq haddr).1]
  · rw [busRead_rom haddr, prgRead, hone, (prgIndex_eq haddr).2]
  · have hlower : (0x8000 : Addr) ≤ addr - 0x4000 := by bv_omega
    have hbelow : (addr - 0x4000).toNat = addr.toNat - 0x4000 := by bv_omega
    have hindex : prgIndex .one addr = prgIndex .one (addr - 0x4000) := by
      rw [(prgIndex_eq haddr).2, (prgIndex_eq hlower).2, hbelow]
      have : 0xC000 ≤ addr.toNat := hupper
      omega
    rw [busRead_rom haddr, busRead_rom hlower, prgRead, prgRead, hone, hindex]

end Sys2Proof.Machine
end

section
/-! O16: the PPU's registers through the mirrors of the window (R67). -/

namespace Sys2Proof.Machine

/-- A number from 8,192 up to 16,383 under a mask of its top bit and of its `k` low bits. -/
theorem and_windowMask {n k : Nat} (hlow : 8192 ≤ n) (hhigh : n < 16384) (hk : k ≤ 13) :
    n &&& (2 ^ 13 + (2 ^ k - 1)) = 2 ^ 13 + n % 2 ^ k := by
  have hpow : 2 ^ k ≤ 2 ^ 13 := Nat.pow_le_pow_right (by decide) hk
  have hpos : 0 < 2 ^ k := Nat.two_pow_pos k
  have hmod : n % 2 ^ k < 2 ^ 13 := (Nat.mod_lt n hpos).trans_le hpow
  have htop : n &&& 2 ^ 13 = 2 ^ 13 := by
    rw [Nat.and_two_pow, Nat.testBit_eq_decide_div_mod_eq, decide_eq_true (by omega)]
    rfl
  have hor : ∀ {b}, b < 2 ^ 13 → 2 ^ 13 + b = 2 ^ 13 ||| b := fun hb => Nat.two_pow_add_eq_or_of_lt hb 1
  rw [hor (by omega), Nat.and_or_distrib_left, htop, Nat.and_two_pow_sub_one_eq_mod, hor hmod]

/-- The register address that a window address mirrors: $2000 and its three low bits. -/
theorem InPpu.toNat_register {addr : Addr} (h : InPpu addr) :
    (addr &&& 0x2007).toNat = 0x2000 + addr.toNat % 8 := by
  obtain ⟨hlow, hhigh⟩ := h
  rw [BitVec.toNat_and]
  exact and_windowMask (k := 3) hlow (Nat.lt_succ_of_le hhigh) (by decide)

theorem InPpu.register {addr : Addr} (h : InPpu addr) : InPpu (addr &&& 0x2007) := by
  have hreg := h.toNat_register
  unfold InPpu
  bv_omega

theorem InPpu.register_cases {addr : Addr} (h : InPpu addr) :
    addr &&& 0x2007 = 0x2000 ∨ addr &&& 0x2007 = 0x2001 ∨ addr &&& 0x2007 = 0x2002 ∨
      addr &&& 0x2007 = 0x2003 ∨ addr &&& 0x2007 = 0x2004 ∨ addr &&& 0x2007 = 0x2005 ∨
      addr &&& 0x2007 = 0x2006 ∨ addr &&& 0x2007 = 0x2007 := by
  have hreg := h.toNat_register
  bv_omega

/-- A mirror selects the register it mirrors. -/
theorem ppuReg_register (addr : Addr) : ppuReg (addr &&& 0x2007) = ppuReg addr := by
  rw [ppuReg, ppuReg, BitVec.and_assoc]
  rfl

theorem ppuReg_of_register {addr base : Addr} (h : addr &&& 0x2007 = base) : ppuReg addr = ppuReg base := by
  rw [← ppuReg_register, h]

/-- A read through a mirror is the read of the register, but for the address that its fatal carries. -/
theorem busRead_mirror {addr : Addr} (h : InPpu addr) (s : State) :
    (busRead addr s).mapError Fault.code = (busRead (addr &&& 0x2007) s).mapError Fault.code := by
  rw [busRead_ppu h, busRead_ppu h.register, ppuRegRead, ppuRegRead, ppuReg_register]
  cases ppuReg addr <;> rfl

/-- A write through a mirror is the write of the register, but for the address that its fatal carries. -/
theorem busWrite_mirror {addr : Addr} (h : InPpu addr) (v : Byte) (s : State) :
    (busWrite addr v s).mapError Fault.code = (busWrite (addr &&& 0x2007) v s).mapError Fault.code := by
  rw [busWrite_ppu h, busWrite_ppu h.register, ppuRegWrite, ppuRegWrite, ppuReg_register]
  cases ppuReg addr <;> rfl

/-- Accesses that agree but for what their fatals carry: one completes as the other does, and stops with the same
cause. -/
theorem outcomes_of_mapError_code {α : Type} {r r' : Except Fault α}
    (h : r.mapError Fault.code = r'.mapError Fault.code) :
    (∀ f, r = .error f → ∃ g, r' = .error g ∧ f.code = g.code) ∧ ∀ a, r = .ok a ↔ r' = .ok a := by
  cases r <;> cases r' <;> simp_all [Except.mapError]

theorem Ppu.writeScroll_of_x (v : Byte) {u : Ppu} (h : u.scrollLatch = .x) :
    u.writeScroll v = { u with scrollX := v, scrollLatch := .y } := by
  rw [Ppu.writeScroll, h]

theorem Ppu.writeScroll_of_y (v : Byte) {u : Ppu} (h : u.scrollLatch = .y) :
    u.writeScroll v = { u with scrollY := v, scrollLatch := .x } := by
  rw [Ppu.writeScroll, h]

/-- Settles O16: the low three bits select the register, whose arm is the answer. -/
theorem ctrlMaskStatusScrollAccess : Obligations.CtrlMaskStatusScrollAccess := by
  intro addr v s hppu
  obtain ⟨hread_fatal, hread_ok⟩ := outcomes_of_mapError_code (busRead_mirror hppu s)
  obtain ⟨hwrite_fatal, hwrite_ok⟩ := outcomes_of_mapError_code (busWrite_mirror hppu v s)
  refine ⟨fun hreg => ?_, fun hreg => ?_, fun hreg => ?_, fun hreg => ?_, hppu.register_cases, hread_fatal,
    hwrite_fatal, fun b t => hread_ok (b, t), hwrite_ok⟩
  all_goals
    rw [busRead_ppu hppu, busWrite_ppu hppu, ppuRegRead, ppuRegWrite, ppuReg_of_register hreg]
  · exact ⟨rfl, rfl⟩
  · exact ⟨rfl, rfl⟩
  · exact ⟨rfl, rfl⟩
  · refine ⟨rfl, fun hlatch => ?_, fun hlatch => ?_⟩
    · rw [← Ppu.writeScroll_of_x v hlatch]
      rfl
    · rw [← Ppu.writeScroll_of_y v hlatch]
      rfl

end Sys2Proof.Machine
end

section
/-! O19, O20: the data port by the range of `ppu_addr`. -/

namespace Sys2Proof.Machine

section
variable {c : Cartridge} {u : Ppu} {v : Byte}

theorem dataRead_chr (h : u.addr ≤ 0x1FFF) (hchr : u.addr.toNat < 8192 * c.chrBanks) :
    dataRead c u = .ok (u.readBuffer, { u.bump with readBuffer := c.chr.read u.addr.toNat }) := by
  rw [dataRead, if_pos h, chrRead, if_pos hchr]
  rfl

theorem dataRead_chr_outOfRange (h : u.addr ≤ 0x1FFF) (hchr : 8192 * c.chrBanks ≤ u.addr.toNat) :
    dataRead c u = .error (.ppuChrOutOfRange u.addr) := by
  rw [dataRead, if_pos h, chrRead, if_neg (Nat.not_lt.2 hchr)]
  rfl

theorem dataRead_nametable (h : 0x2000 ≤ u.addr) (h' : u.addr ≤ 0x2FFF) :
    dataRead c u = (vramIndex c.mirroring u.addr).map fun k =>
      (u.readBuffer, { u.bump with readBuffer := u.vram.read k }) := by
  rw [dataRead, if_neg (by bv_omega), if_pos h']
  cases vramIndex c.mirroring u.addr <;> rfl

theorem dataRead_unused (h : 0x3000 ≤ u.addr) (h' : u.addr ≤ 0x3EFF) :
    dataRead c u = .error (.ppuUnusedRange u.addr) := by
  rw [dataRead, if_neg (by bv_omega), if_neg (by bv_omega), if_pos h']
  rfl

theorem dataRead_palette (h : 0x3F00 ≤ u.addr) (h' : u.addr ≤ 0x3FFF) :
    dataRead c u = .ok (u.palette.read (palIndex u.addr), u.bump) := by
  rw [dataRead, if_neg (by bv_omega), if_neg (by bv_omega), if_neg (by bv_omega), if_pos h']

theorem dataRead_outOfRange (h : 0x4000 ≤ u.addr) :
    dataRead c u = .error (.ppuAddrOutOfRange u.addr) := by
  rw [dataRead, if_neg (by bv_omega), if_neg (by bv_omega), if_neg (by bv_omega), if_neg (by bv_omega)]
  rfl

theorem dataWrite_chr (h : u.addr ≤ 0x1FFF) : dataWrite c v u = .error (.ppuChrWrite u.addr) :=
  if_pos h

theorem dataWrite_nametable (h : 0x2000 ≤ u.addr) (h' : u.addr ≤ 0x2FFF) :
    dataWrite c v u = (vramIndex c.mirroring u.addr).map fun k =>
      { u.bump with vram := u.vram.write k v } := by
  rw [dataWrite, if_neg (by bv_omega), if_pos h']
  cases vramIndex c.mirroring u.addr <;> rfl

theorem dataWrite_unused (h : 0x3000 ≤ u.addr) (h' : u.addr ≤ 0x3EFF) :
    dataWrite c v u = .error (.ppuUnusedRange u.addr) := by
  rw [dataWrite, if_neg (by bv_omega), if_neg (by bv_omega), if_pos h']
  rfl

theorem dataWrite_palette (h : 0x3F00 ≤ u.addr) (h' : u.addr ≤ 0x3FFF) :
    dataWrite c v u = .ok { u.bump with palette := u.palette.write (palIndex u.addr) v } := by
  rw [dataWrite, if_neg (by bv_omega), if_neg (by bv_omega), if_neg (by bv_omega), if_pos h']

theorem dataWrite_outOfRange (h : 0x4000 ≤ u.addr) :
    dataWrite c v u = .error (.ppuAddrOutOfRange u.addr) := by
  rw [dataWrite, if_neg (by bv_omega), if_neg (by bv_omega), if_neg (by bv_omega), if_neg (by bv_omega)]
  rfl

end

theorem vramIndex_of_mirror {mir : Mirroring} {a : Addr} {k : Nat} (h : mirrorVramAddr mir a = some k) :
    vramIndex mir a = if k < 2048 then .ok k else .error (.ppuVramIndexOutOfRange a) := by
  rw [vramIndex, h]
  rfl

/-- Settles O19: the read by range as the bus answers it, and `busRead_pure` off the port. -/
theorem dataPortReadByRange : Obligations.DataPortReadByRange := by
  refine fun addr s => ⟨fun hport => ?_, fun hport v t h => busRead_pure h hport⟩
  simp only [busRead_port hport]
  refine ⟨fun h hchr => ?_, fun h hchr => ?_, fun h h' k hk => ⟨fun hlt => ?_, fun hle => ?_⟩, fun h h' => ?_,
    fun h h' => ?_, fun h => ?_⟩
  · rw [dataRead_chr h hchr]
    rfl
  · rw [dataRead_chr_outOfRange h hchr]
    rfl
  · rw [dataRead_nametable h h', vramIndex_of_mirror hk, if_pos hlt]
    rfl
  · rw [dataRead_nametable h h', vramIndex_of_mirror hk, if_neg (Nat.not_lt.2 hle)]
    rfl
  · rw [dataRead_unused h h']
    rfl
  · rw [dataRead_palette h h']
    rfl
  · rw [dataRead_outOfRange h]
    rfl

/-- Settles O20: the write by range as the bus answers it. -/
theorem dataPortWriteByRange : Obligations.DataPortWriteByRange := by
  intro addr v s hport
  simp only [busWrite_port hport]
  refine ⟨fun h => ?_, fun h h' k hk => ⟨fun hlt => ?_, fun hle => ?_⟩, fun h h' => ?_, fun h h' => ?_,
    fun h => ?_⟩
  · rw [dataWrite_chr h]
    rfl
  · rw [dataWrite_nametable h h', vramIndex_of_mirror hk, if_pos hlt]
    rfl
  · rw [dataWrite_nametable h h', vramIndex_of_mirror hk, if_neg (Nat.not_lt.2 hle)]
    rfl
  · rw [dataWrite_unused h h']
    rfl
  · rw [dataWrite_palette h h']
    rfl
  · rw [dataWrite_outOfRange h]
    rfl

end Sys2Proof.Machine
end

section
/-! O14, O15: where a bus access completes. -/

namespace Sys2Proof.Machine

/-! ### The cell behind the data port exists -/

/-- Every logical nametable is mapped, and only FourScreen maps one to a table that `vram` does not back (R92, D18). -/
theorem ntMap_of_lt (mir : Mirroring) {nt : Nat} (h : nt < 4) :
    ∃ phys, ntMap mir nt = some phys ∧ (phys < 2 ↔ (mir = .fourScreen → nt < 2)) := by
  have hnt : nt = 0 ∨ nt = 1 ∨ nt = 2 ∨ nt = 3 := by omega
  cases mir <;> rcases hnt with rfl | rfl | rfl | rfl <;> exact ⟨_, rfl, by decide⟩

/-- A nametable address has a mirrored index, which lies in `vram` unless FourScreen maps it above (R92, D18). -/
theorem mirrorVramAddr_of_nametable (mir : Mirroring) {a : Addr} (h : 0x2000 ≤ a) (h' : a ≤ 0x2FFF) :
    ∃ k, mirrorVramAddr mir a = some k ∧ (k < 2048 ↔ (mir = .fourScreen → a ≤ 0x27FF)) := by
  have hmask : a &&& 0x2FFF = a := by
    refine BitVec.eq_of_toNat_eq ?_
    rw [BitVec.toNat_and]
    have hwindow := and_windowMask (n := a.toNat) (k := 12) h (by bv_omega) (by decide)
    exact hwindow.trans (by bv_omega)
  obtain ⟨phys, hphys, hlt⟩ := ntMap_of_lt mir (nt := (a - 0x2000).toNat / 1024) (by bv_omega)
  refine ⟨phys * 0x400 + (a - 0x2000).toNat % 1024, ?_, ?_⟩
  · simp only [mirrorVramAddr, hmask, hphys, Option.map_some]
  · have hcell : phys * 0x400 + (a - 0x2000).toNat % 1024 < 2048 ↔ phys < 2 := by omega
    have htable : (a - 0x2000).toNat / 1024 < 2 ↔ a ≤ 0x27FF := by bv_omega
    rw [hcell, hlt, htable]

theorem vramIndex_ok_iff (mir : Mirroring) {a : Addr} (h : 0x2000 ≤ a) (h' : a ≤ 0x2FFF) :
    (∃ k, vramIndex mir a = .ok k) ↔ (mir = .fourScreen → a ≤ 0x27FF) := by
  obtain ⟨k, hk, hlt⟩ := mirrorVramAddr_of_nametable mir h h'
  rw [vramIndex_of_mirror hk, ← hlt]
  by_cases hcell : k < 2048 <;> simp [hcell]

theorem portCell_iff_dataWrite_ok (s : State) (v : Byte) :
    PortCell s ↔ ∃ u, dataWrite s.cart v s.ppu = .ok u := by
  constructor
  · rintro (⟨h, h', hfour⟩ | ⟨h, h'⟩)
    · obtain ⟨k, hk⟩ := (vramIndex_ok_iff s.cart.mirroring h h').2 hfour
      rw [dataWrite_nametable h h', hk]
      exact ⟨_, rfl⟩
    · exact ⟨_, dataWrite_palette h h'⟩
  · rintro ⟨u, hu⟩
    rcases dataWrite_cases hu with ⟨h, h', k, hk, -⟩ | ⟨h, h', -⟩
    · exact .inl ⟨h, h', (vramIndex_ok_iff s.cart.mirroring h h').1 ⟨k, hk⟩⟩
    · exact .inr ⟨h, h'⟩

theorem portReadable_iff_dataRead_ok (s : State) :
    PortReadable s ↔ ∃ q, dataRead s.cart s.ppu = .ok q := by
  constructor
  · rintro (⟨h, hchr⟩ | ⟨h, h', hfour⟩ | ⟨h, h'⟩)
    · exact ⟨_, dataRead_chr h hchr⟩
    · obtain ⟨k, hk⟩ := (vramIndex_ok_iff s.cart.mirroring h h').2 hfour
      rw [dataRead_nametable h h', hk]
      exact ⟨_, rfl⟩
    · exact ⟨_, dataRead_palette h h'⟩
  · rintro ⟨q, hq⟩
    rcases dataRead_cases hq with ⟨h, hchr, -⟩ | ⟨h, h', -, k, hk, -⟩ | ⟨h, h', -⟩
    · exact .inl ⟨h, hchr⟩
    · exact .inr (.inl ⟨h, h', (vramIndex_ok_iff s.cart.mirroring h h').1 ⟨k, hk⟩⟩)
    · exact .inr (.inr ⟨h, h'⟩)

/-! ### The Read and the Write column of R61's map -/

theorem readable_iff_busRead_ok (addr : Addr) (s : State) :
    Readable addr s ↔ ∃ v t, busRead addr s = .ok (v, t) := by
  constructor
  · rintro (hram | hrom | ⟨hppu, hstatus | ⟨hdata, hport⟩⟩)
    · exact ⟨_, _, busRead_ram hram⟩
    · exact ⟨_, _, busRead_rom hrom⟩
    · rw [busRead_ppu hppu, ppuRegRead, hstatus]
      exact ⟨_, _, rfl⟩
    · obtain ⟨q, hq⟩ := (portReadable_iff_dataRead_ok s).1 hport
      rw [busRead_port ⟨hppu, hdata⟩, hq]
      exact ⟨_, _, rfl⟩
  · rintro ⟨v, t, h⟩
    rcases busRead_cases h with ⟨hram, -⟩ | ⟨hppu, hstatus, -⟩ | ⟨⟨hppu, hdata⟩, u, hu, -⟩ | ⟨hrom, -⟩
    · exact .inl hram
    · exact .inr (.inr ⟨hppu, .inl hstatus⟩)
    · exact .inr (.inr ⟨hppu, .inr ⟨hdata, (portReadable_iff_dataRead_ok s).2 ⟨_, hu⟩⟩⟩)
    · exact .inr (.inl hrom)

theorem writable_iff_busWrite_ok (addr : Addr) (v : Byte) (s : State) :
    Writable addr s ↔ ∃ t, busWrite addr v s = .ok t := by
  constructor
  · rintro (hram | ⟨hppu, hreg | hreg | hreg | hreg | ⟨hdata, hport⟩⟩)
    · exact ⟨_, busWrite_ram hram⟩
    case inr.inr.inr.inr.inr =>
      obtain ⟨u, hu⟩ := (portCell_iff_dataWrite_ok s v).1 hport
      rw [busWrite_port ⟨hppu, hdata⟩, hu]
      exact ⟨_, rfl⟩
    all_goals
      rw [busWrite_ppu hppu, ppuRegWrite, hreg]
      exact ⟨_, rfl⟩
  · rintro ⟨t, h⟩
    rcases busWrite_cases h with ⟨hram, -⟩ | ⟨hppu, hctrl, -⟩ | ⟨hppu, hmask, -⟩ | ⟨hppu, hscroll, -⟩ |
      ⟨hppu, haddr, -⟩ | ⟨⟨hppu, hdata⟩, u, hu, -⟩
    · exact .inl hram
    · exact .inr ⟨hppu, .inl hctrl⟩
    · exact .inr ⟨hppu, .inr (.inl hmask)⟩
    · exact .inr ⟨hppu, .inr (.inr (.inl hscroll))⟩
    · exact .inr ⟨hppu, .inr (.inr (.inr (.inl haddr)))⟩
    · exact .inr ⟨hppu, .inr (.inr (.inr (.inr ⟨hdata, (portCell_iff_dataWrite_ok s v).2 ⟨u, hu⟩⟩)))⟩

/-- Settles O14: off the port a read that does not complete is the violation. -/
theorem busReadCompletesExactlyWhere : Obligations.BusReadCompletesExactlyWhere := by
  intro addr s
  have hiff := readable_iff_busRead_ok addr s
  refine ⟨hiff, fun hnot hport => (busRead_off_port hport).resolve_left ?_⟩
  rintro ⟨v, h⟩
  exact hnot (hiff.2 ⟨v, s, h⟩)

/-- Settles O15: off the port a write that does not complete is the violation. -/
theorem busWriteCompletesExactlyWhere : Obligations.BusWriteCompletesExactlyWhere := by
  intro addr v s
  have hiff := writable_iff_busWrite_ok addr v s
  exact ⟨hiff, fun hnot hport => (busWrite_off_port hport).resolve_left fun hok => hnot (hiff.2 hok)⟩

end Sys2Proof.Machine
end

section
/-! O1, O2, O3, O4, O11: the encoder and the decoder are inverse to each other, and the opcode byte alone fixes the
length and the class of the instruction. -/

namespace Sys2Proof

/-! ### The opcode map, with any operand bytes -/

theorem wordBytes_word (b1 b2 : Byte) : wordBytes (Machine.word b2 b1) = [b1, b2] := by
  simp only [wordBytes, Machine.loByte, Machine.hiByte, Machine.word, BitVec.extractLsb'_append_eq_right,
    BitVec.extractLsb'_append_eq_left]

theorem Operand.bytes_withBytes (m : Operand) (b1 b2 : Byte) :
    (m.withBytes b1 b2).bytes = [b1, b2].take (m.length - 1) := by
  cases m with
  | acc | imm | zp | zpx | zpy | indx | indy => rfl
  | abs | absx | absy => exact wordBytes_word b1 b2

/-- The operand bytes put in are the ones the instruction then has, as many as its length takes (R121, R126). -/
theorem Instr.operandBytes_withBytes (i : Instr) (b1 b2 : Byte) :
    (i.withBytes b1 b2).operandBytes = [b1, b2].take (i.length - 1) := by
  cases i with
  | lda m | ldx m | ldy m | sta m | stx m | sty m | adc m | sbc m | and m | ora m | eor m | bit m | cmp m
  | cpx m | cpy m | inc m | dec m | asl m | lsr m | rol m | ror m | ign _ m | lax m | sax m | dcp m | isc m
  | ahx m => exact m.bytes_withBytes b1 b2
  | jsr | jmp | jmpInd | las | shx | shy | tas => exact wordBytes_word b1 b2
  | _ => rfl

theorem Instr.wf_opcode_withBytes (i : Instr) (b1 b2 : Byte) :
    (i.withBytes b1 b2).wf = i.wf ∧ (i.withBytes b1 b2).opcode = i.opcode := by
  cases i with
  | lda m | ldx m | ldy m | sta m | stx m | sty m | adc m | sbc m | and m | ora m | eor m | bit m | cmp m
  | cpx m | cpy m | inc m | dec m | asl m | lsr m | rol m | ror m | ign _ m | lax m | sax m | dcp m | isc m
  | ahx m => cases m <;> exact ⟨rfl, rfl⟩
  | _ => exact ⟨rfl, rfl⟩

/-- Each of the 256 entries of the opcode map is well-formed and stands at its own opcode byte (R122). -/
theorem instrAt_zero_wf_opcode (opc : Byte) :
    (instrAt opc 0x00 0x00).wf = true ∧ (instrAt opc 0x00 0x00).opcode = some opc := by
  revert opc
  decide

/-- A well-formed instruction is its opcode byte's entry of the map, the operand bytes put in. -/
theorem instrAt_of_wf_opcode {i : Instr} {opc : Byte} (hwf : i.wf = true) (hopc : i.opcode = some opc)
    (b1 b2 : Byte) : instrAt opc b1 b2 = i.withBytes b1 b2 := by
  obtain ⟨opc', hopc', hinstr⟩ := instrAt_of_wf hwf
  cases hopc.symm.trans hopc'
  exact hinstr b1 b2

theorem instrAt_eq_withBytes (opc b1 b2 : Byte) : instrAt opc b1 b2 = (instrAt opc 0x00 0x00).withBytes b1 b2 := by
  obtain ⟨hwf, hopc⟩ := instrAt_zero_wf_opcode opc
  exact instrAt_of_wf_opcode hwf hopc b1 b2

theorem instrAt_wf (opc b1 b2 : Byte) : (instrAt opc b1 b2).wf = true := by
  rw [instrAt_eq_withBytes, (Instr.wf_opcode_withBytes _ b1 b2).1]
  exact (instrAt_zero_wf_opcode opc).1

theorem instrAt_opcode (opc b1 b2 : Byte) : (instrAt opc b1 b2).opcode = some opc := by
  rw [instrAt_eq_withBytes, (Instr.wf_opcode_withBytes _ b1 b2).2]
  exact (instrAt_zero_wf_opcode opc).2

theorem instrAt_length (opc b1 b2 : Byte) : (instrAt opc b1 b2).length = lengthAt opc := by
  rw [instrAt_eq_withBytes, Instr.length_withBytes, lengthAt]

theorem Instr.length_eq (i : Instr) : i.length = i.operandBytes.length + 1 := by
  obtain ⟨m, hbytes, hlength, -⟩ := i.exists_operand 0x00 0x00
  rw [hbytes, hlength]
  cases m <;> rfl

theorem lengthAt_cases (opc : Byte) : lengthAt opc = 1 ∨ lengthAt opc = 2 ∨ lengthAt opc = 3 := by
  have hle := (instrAt opc 0x00 0x00).operandBytes_length.2
  rw [lengthAt, Instr.length_eq]
  omega

theorem encode_instrAt (opc b1 b2 : Byte) :
    encode (instrAt opc b1 b2) = opc :: [b1, b2].take (lengthAt opc - 1) := by
  rw [encode, instrAt_opcode, instrAt_eq_withBytes, Instr.operandBytes_withBytes, lengthAt]

/-- An instruction without operand bytes is its opcode byte's entry of the map exactly if it is well-formed. -/
theorem instrAt_eq_iff_wf {i : Instr} {opc b1 b2 : Byte} (hopc : i.opcode = some opc)
    (hsame : i.withBytes b1 b2 = i) : instrAt opc b1 b2 = i ↔ i.wf = true := by
  constructor
  · rintro rfl
    exact instrAt_wf opc b1 b2
  · intro hwf
    rw [instrAt_of_wf_opcode hwf hopc, hsame]

theorem instrAt_eq_unknown_iff (opc b1 b2 : Byte) : instrAt opc b1 b2 = .unknown opc ↔ opc ∈ unassignedBytes :=
  (instrAt_eq_iff_wf rfl rfl).trans List.contains_iff_mem

theorem instrAt_eq_kil_iff (opc b1 b2 : Byte) : instrAt opc b1 b2 = .kil opc ↔ opc ∈ kilBytes :=
  (instrAt_eq_iff_wf rfl rfl).trans List.contains_iff_mem

/-! ### The decoder -/

/-- What the decoder accepts is an entry of the opcode map, with the operand bytes that follow the opcode byte. -/
theorem decode_cases {bytes rest : List Byte} {i : Instr} (h : decode bytes = .ok (i, rest)) :
    ∃ opc b1 b2, i = instrAt opc b1 b2 ∧ bytes = opc :: ([b1, b2].take (lengthAt opc - 1) ++ rest) := by
  cases bytes with
  | nil => cases h
  | cons opc tail =>
    simp only [decode] at h
    split at h
    · rename_i hlength
      cases h
      exact ⟨opc, 0x00, 0x00, rfl, by rw [hlength]; rfl⟩
    · rename_i b1 _ hlength
      cases h
      exact ⟨opc, b1, 0x00, rfl, by rw [hlength]; rfl⟩
    · rename_i b1 b2 _ hlength
      cases h
      exact ⟨opc, b1, b2, rfl, by rw [hlength]; rfl⟩
    · cases h

/-- Settles O1: the opcode map holds the instruction, and the three lengths read back its operand bytes. -/
theorem decodeOfEncodeIsTheInstruction : Obligations.DecodeOfEncodeIsTheInstruction := by
  intro i rest hwf
  obtain ⟨opc, hopc, hinstr⟩ := instrAt_of_wf hwf
  have hlength : lengthAt opc = i.operandBytes.length + 1 := by
    rw [lengthAt, hinstr, Instr.length_withBytes, Instr.length_eq]
  have hsame : ∀ {b1 b2}, i.operandBytes <+: [b1, b2] → instrAt opc b1 b2 = i := fun h => by
    rw [hinstr, Instr.withBytes_of_operandBytes h]
  rw [encode, hopc]
  match hops : i.operandBytes with
  | [] => simp [decode, hlength, hops, hsame]
  | [b1] => simp [decode, hlength, hops, hsame]
  | [b1, b2] => simp [decode, hlength, hops, hsame]
  | _ :: _ :: _ :: _ =>
    have hle := i.operandBytes_length.2
    simp [hops] at hle

/-- Settles O2: an entry of the opcode map is well-formed, and its encoding is the bytes it was read from. -/
theorem encodeOfDecodeIsTheBytes : Obligations.EncodeOfDecodeIsTheBytes := by
  intro bytes i rest h
  obtain ⟨opc, b1, b2, rfl, rfl⟩ := decode_cases h
  exact ⟨instrAt_wf opc b1 b2, by rw [encode_instrAt]; rfl⟩

/-- Settles O3: the bytes read are the encoding of the entry of the opcode map, which O1 decodes. -/
theorem opcodeByteFixesLengthAndClass : Obligations.OpcodeByteFixesLengthAndClass := by
  intro opc b1 b2 rest
  have hlength := instrAt_length opc b1 b2
  have hcases := lengthAt_cases opc
  have hencode : encode (instrAt opc b1 b2) = (opc :: b1 :: b2 :: rest).take (lengthAt opc) := by
    rw [encode_instrAt]
    rcases hcases with h | h | h <;> rw [h] <;> rfl
  have hround := decodeOfEncodeIsTheInstruction _ ((opc :: b1 :: b2 :: rest).drop (lengthAt opc))
    (instrAt_wf opc b1 b2)
  rw [hencode, List.take_append_drop, ← hlength] at hround
  exact ⟨instrAt opc b1 b2, hround, by omega, by omega, hlength, instrAt_opcode opc b1 b2,
    instrAt_eq_unknown_iff opc b1 b2, instrAt_eq_kil_iff opc b1 b2⟩

/-- Settles O4: the decoder runs on each word. -/
theorem sampleWordsDecode : Obligations.SampleWordsDecode := by
  unfold Obligations.SampleWordsDecode
  decide

end Sys2Proof

namespace Sys2Proof.Machine

/-- The fetch of a byte that stands alone is the read of that byte (R151). -/
theorem fetch_of_no_operandReads {s s1 : State} {opc : Byte} (h : busRead s.pc s = .ok (opc, s1))
    (hreads : operandReads (instrAt opc 0x00 0x00) s.p = 0) : fetch s = .ok (instrAt opc 0x00 0x00, s1) := by
  refine bind_ok.2 ⟨_, h, ?_⟩
  dsimp only
  match operandReads (instrAt opc 0x00 0x00) s.p, hreads with
  | _, rfl => rfl

/-- Settles O11: the byte is the whole instruction, and reading it leaves PC. -/
theorem unassignedAndKilBytesAreFatal : Obligations.UnassignedAndKilBytesAreFatal := by
  refine ⟨fun s opc => ⟨rfl, rfl⟩, fun s s1 opc hrun hhost hread => ?_⟩
  have hpc : s1.pc = s.pc := by rw [busRead_effect hread]
  have hstep : ∀ {i}, instrAt opc 0x00 0x00 = i → operandReads i s.p = 0 → step s = exec i s1 := by
    rintro i rfl hreads
    exact step_of_fetch_ok hrun (runHost_identity hhost) (fetch_of_no_operandReads hread hreads)
  rw [← hpc]
  exact ⟨fun h => hstep ((instrAt_eq_unknown_iff opc _ _).2 h) rfl, fun h =>
    hstep ((instrAt_eq_kil_iff opc _ _).2 h) rfl⟩

end Sys2Proof.Machine
end

section
/-! O34: the effective addresses in integers. -/

namespace Sys2Proof.Machine

theorem zext_toNat (b : Byte) : (zext b).toNat = b.toNat :=
  BitVec.toNat_setWidth_of_le (by decide)

/-- An index register counts without sign, and the sum wraps modulo 65,536 (R160, R162, R163). -/
theorem add_zext (w : Addr) (b : Byte) : w + zext b = BitVec.ofNat 16 (w.toNat + b.toNat) := by
  refine BitVec.eq_of_toNat_eq ?_
  rw [BitVec.toNat_add, zext_toNat, BitVec.toNat_ofNat]

theorem zext_eq_ofNat (b : Byte) : zext b = BitVec.ofNat 16 b.toNat := by
  rw [← zext_toNat, BitVec.ofNat_toNat, BitVec.setWidth_eq]

/-- An index in the zero page wraps modulo 256 (R157, R158). -/
theorem zext_add (z b : Byte) : zext (z + b) = BitVec.ofNat 16 ((z.toNat + b.toNat) % 256) := by
  rw [zext_eq_ofNat, BitVec.toNat_add]

/-- The zero page is the first 256 bytes of `cpu_ram` (R165). -/
theorem zeroPage_eq_read (z : Byte) (s : State) : zeroPage z s = s.cpuRam.read z.toNat := by
  have hlt : z.toNat < 2048 := by have := z.isLt; omega
  rw [zeroPage, ramRead, ramIndex_eq_mod, zext_toNat, Nat.mod_eq_of_lt hlt]

theorem zeroPageWord_eq_read (z : Byte) (s : State) :
    zeroPageWord z s = s.cpuRam.read (z + 1).toNat ++ s.cpuRam.read z.toNat := by
  rw [zeroPageWord, zeroPage_eq_read, zeroPage_eq_read, word]

/-- An operand that is not immediate is one bus read at its effective address (R166). -/
theorem readOperand_of_resolve {m : Operand} {s : State} {ea : Addr} (hm : ∀ b, m ≠ .imm b)
    (h : resolve m s = .ok ea) : readOperand m s = busRead ea s := by
  cases m with
  | imm b => exact absurd rfl (hm b)
  | _ => simp only [readOperand, h, bind, Except.bind]

/-- Settles O34: each mode's arm of `resolve`, with its sum in integers. -/
theorem effectiveAddresses : Obligations.EffectiveAddresses := by
  intro s z v w zpByte
  refine ⟨rfl, ?_, ?_, ?_, rfl, ?_, ?_, ?_, ?_, rfl, fun m ea => readOperand_of_resolve⟩
  · rw [resolve, zext_eq_ofNat]
  · rw [resolve, zext_add]
  · rw [resolve, zext_add]
  · rw [resolve, add_zext]
  · rw [resolve, add_zext]
  · rw [resolve, zeroPageWord_eq_read]
  · rw [resolve, zeroPageWord_eq_read, add_zext]

end Sys2Proof.Machine
end

section
/-! O12: what an instruction answers when it answers no next state. -/

namespace Sys2Proof.Machine

/-- The access does not raise the fatal of R164. -/
def NeverResolveNone {α : Type} (r : Except Fault α) : Prop := ∀ pc, r ≠ .error (.resolveNone pc)

theorem NeverResolveNone.ok {α : Type} (x : α) : NeverResolveNone (.ok x) := nofun

theorem NeverResolveNone.bind {α β : Type} {r : Except Fault α} {f : α → Except Fault β}
    (hr : NeverResolveNone r) (hf : ∀ x, NeverResolveNone (f x)) : NeverResolveNone (r >>= f) := by
  intro pc h
  rcases bind_error.1 h with h | ⟨x, -, h⟩
  · exact hr pc h
  · exact hf x pc h

theorem chrRead_neverResolveNone (c : Cartridge) (a : Addr) : NeverResolveNone (chrRead c a) := by
  unfold chrRead
  split <;> nofun

theorem vramIndex_neverResolveNone (mir : Mirroring) (a : Addr) : NeverResolveNone (vramIndex mir a) := by
  unfold vramIndex
  split
  · split <;> nofun
  · nofun

theorem dataRead_neverResolveNone (c : Cartridge) (u : Ppu) : NeverResolveNone (dataRead c u) := by
  unfold dataRead
  split
  · exact .bind (chrRead_neverResolveNone _ _) fun _ => .ok _
  · split
    · exact .bind (vramIndex_neverResolveNone _ _) fun _ => .ok _
    · repeat' split
      all_goals nofun

theorem dataWrite_neverResolveNone (c : Cartridge) (v : Byte) (u : Ppu) :
    NeverResolveNone (dataWrite c v u) := by
  unfold dataWrite
  split
  · nofun
  · split
    · exact .bind (vramIndex_neverResolveNone _ _) fun _ => .ok _
    · repeat' split
      all_goals nofun

theorem busRead_neverResolveNone (addr : Addr) (s : State) : NeverResolveNone (busRead addr s) := by
  by_cases hport : IsDataPort addr
  · rw [busRead_ppu hport.1, ppuRegRead, hport.2]
    exact .bind (dataRead_neverResolveNone _ _) fun _ => .ok _
  · rcases busRead_off_port (s := s) hport with ⟨v, h⟩ | h <;> rw [h] <;> nofun

theorem busWrite_neverResolveNone (addr : Addr) (v : Byte) (s : State) :
    NeverResolveNone (busWrite addr v s) := by
  by_cases hport : IsDataPort addr
  · rw [busWrite_ppu hport.1, ppuRegWrite, hport.2]
    exact .bind (dataWrite_neverResolveNone _ _ _) fun _ => .ok _
  · rcases busWrite_off_port (s := s) (v := v) hport with ⟨t, h⟩ | h <;> rw [h] <;> nofun

theorem resolve_neverResolveNone {m : Operand} (hm : m ≠ .acc) (s : State) :
    NeverResolveNone (resolve m s) := by
  obtain ⟨ea, h⟩ := resolve_ok hm s
  rw [h]
  exact .ok ea

theorem readOperand_neverResolveNone {m : Operand} (hm : m ≠ .acc) (s : State) :
    NeverResolveNone (readOperand m s) := by
  cases m with
  | acc => exact absurd rfl hm
  | imm v => exact .ok _
  | _ => exact busRead_neverResolveNone _ s

/-- The instruction is not refused and, if it is `admitted`, does not raise the fatal of R164. -/
structure Answered (admitted : Prop) (r : Result State) : Prop where
  not_refused : ∀ q, r ≠ .refused q
  not_resolveNone : admitted → ∀ pc, r ≠ .fault (.resolveNone pc)

section
variable {admitted : Prop} {m : Operand} {s : State}

theorem Answered.next (t : State) : Answered admitted (.next t) := ⟨nofun, nofun⟩

theorem finish_answered {r : Except Fault State} (h : admitted → NeverResolveNone r) :
    Answered admitted (finish r) :=
  ⟨finish_not_refused r, fun hadm pc hfault => h hadm pc ((finish_fault r _).1 hfault)⟩

theorem readInstr_answered {f : Byte → State → State} (hm : admitted → m ≠ .acc) :
    Answered admitted (readInstr m f s) :=
  finish_answered fun hadm => (readOperand_neverResolveNone (hm hadm) s).bind fun _ => .ok _

theorem storeInstr_answered {v : Addr → Byte} (hm : admitted → m ≠ .acc) :
    Answered admitted (storeInstr m v s) :=
  finish_answered fun hadm => (resolve_neverResolveNone (hm hadm) s).bind fun _ =>
    (busWrite_neverResolveNone _ _ s).bind fun _ => .ok _

theorem modifyInstr_answered {r : Byte → Byte} {g : Byte → Byte → State → State} (hm : admitted → m ≠ .acc) :
    Answered admitted (modifyInstr m r g s) :=
  finish_answered fun hadm => (resolve_neverResolveNone (hm hadm) s).bind fun _ =>
    (busRead_neverResolveNone _ s).bind fun _ => (busWrite_neverResolveNone _ _ _).bind fun _ => .ok _

/-- A shift of the accumulator does not resolve its operand (R234). -/
theorem shiftInstr_answered {r : Byte → Byte} {out : Byte → Bool} : Answered admitted (shiftInstr m r out s) := by
  cases m with
  | acc => exact .next _
  | _ =>
    simp only [shiftInstr]
    exact modifyInstr_answered fun _ => nofun

theorem branch_answered {taken : Bool} {d : Byte} : Answered admitted (branch taken d s) := by
  cases taken <;> exact .next _

theorem execJmpInd_answered (ptr : Addr) : Answered admitted (execJmpInd ptr s) :=
  finish_answered fun _ => (busRead_neverResolveNone ptr s).bind fun _ =>
    (busRead_neverResolveNone _ _).bind fun _ => .ok _

end

/-- A well-formed instruction that resolves its operand does not have the accumulator (R123, R124). -/
theorem exec_answered (i : Instr) (s : State) : Answered (i.wf = true) (exec i s) := by
  cases i with
  | lda m | ldx m | ldy m | adc m | sbc m | and m | ora m | eor m | bit m | cmp m | cpx m | cpy m | ign _ m
  | lax m =>
    simp only [exec, execLda, execLdx, execLdy, execAdc, execSbc, execAnd, execOra, execEor, execBit, execCmp,
      execCpx, execCpy, execIgn, execLax]
    refine readInstr_answered fun hwf hm => ?_
    subst hm
    cases hwf
  | sta m | stx m | sty m | sax m | ahx m =>
    refine storeInstr_answered fun hwf hm => ?_
    subst hm
    cases hwf
  | inc m | dec m | dcp m | isc m =>
    simp only [exec, execInc, execDec, execDcp, execIsc]
    refine modifyInstr_answered fun hwf hm => ?_
    subst hm
    cases hwf
  | las =>
    simp only [exec, execLas]
    exact readInstr_answered fun _ => nofun
  | shx | shy | tas => exact storeInstr_answered fun _ => nofun
  | asl | lsr | rol | ror =>
    simp only [exec, execAsl, execLsr, execRol, execRor]
    exact shiftInstr_answered
  | bcc | bcs | beq | bmi | bne | bpl | bvc | bvs => exact branch_answered
  | jmpInd ptr => exact execJmpInd_answered ptr
  | kil | unknown => exact ⟨nofun, nofun⟩
  | tax | tay | txa | tya | tsx | txs | inx | iny | dex | dey | pha | pla | php | plp | jsr | rts | rti
  | jmp | clc | sec | cli | sei | cld | sed | clv | nop | brk | nopIllegal | skb | anc | alr | arr | axs
  | sbcAlias => exact .next _

/-- Settles O12, by the two parts of `exec_answered`. -/
theorem nothingRefusedAndResolveNoneUnreachable : Obligations.NothingRefusedAndResolveNoneUnreachable := by
  intro i s
  obtain ⟨hrefused, hresolve⟩ := exec_answered i s
  exact ⟨hrefused, hresolve⟩

end Sys2Proof.Machine
end

section
/-! O8, O59: an instruction that neither stops the run nor assigns PC goes on at the byte after it. -/

namespace Sys2Proof.Machine

section
variable {n : Nat} {s t u : State}

/-- PC and `run` are the same. -/
structure SameControl (s t : State) : Prop where
  pc : t.pc = s.pc
  run : t.run = s.run

theorem SameControl.trans (h : SameControl s t) (h' : SameControl t u) : SameControl s u :=
  ⟨h'.pc.trans h.pc, h'.run.trans h.run⟩

/-- `run` is the same, and PC is `n` bytes further (R150). -/
structure GoesOn (n : Nat) (s t : State) : Prop where
  pc : t.pc = s.pc + BitVec.ofNat 16 n
  run : t.run = s.run

theorem SameControl.goesOn (h : SameControl s t) : GoesOn n s (advance n t) :=
  ⟨by rw [advance_pc, h.pc], h.run⟩

theorem busRead_sameControl {addr : Addr} {v : Byte} (h : busRead addr s = .ok (v, t)) : SameControl s t := by
  rw [busRead_effect h]
  exact ⟨rfl, rfl⟩

theorem readOperand_sameControl {m : Operand} {v : Byte} (h : readOperand m s = .ok (v, t)) :
    SameControl s t := by
  rw [readOperand_effect h]
  exact ⟨rfl, rfl⟩

theorem busWrite_sameControl {addr : Addr} {v : Byte} (h : busWrite addr v s = .ok t) : SameControl s t := by
  rw [(busWrite_effect h).1]
  exact ⟨rfl, rfl⟩

theorem readInstr_goesOn {m : Operand} {f : Byte → State → State} (h : readInstr m f s = .next t)
    (hf : ∀ v u, SameControl u (f v u)) : GoesOn m.length s t := by
  obtain ⟨v, s1, hr, rfl⟩ := readInstr_next.1 h
  exact ((readOperand_sameControl hr).trans (hf v s1)).goesOn

theorem storeInstr_goesOn {m : Operand} {v : Addr → Byte} (h : storeInstr m v s = .next t) :
    GoesOn m.length s t := by
  obtain ⟨ea, s1, -, hw, rfl⟩ := storeInstr_next.1 h
  exact (busWrite_sameControl hw).goesOn

theorem modifyInstr_goesOn {m : Operand} {r : Byte → Byte} {g : Byte → Byte → State → State}
    (h : modifyInstr m r g s = .next t) (hg : ∀ old res u, SameControl u (g old res u)) :
    GoesOn m.length s t := by
  obtain ⟨ea, old, s1, s2, -, hr, hw, rfl⟩ := modifyInstr_next.1 h
  exact (((busRead_sameControl hr).trans (busWrite_sameControl hw)).trans (hg old (r old) s2)).goesOn

theorem shiftInstr_goesOn {m : Operand} {r : Byte → Byte} {out : Byte → Bool}
    (h : shiftInstr m r out s = .next t) : GoesOn m.length s t := by
  cases m with
  | acc =>
    cases h
    exact ⟨rfl, rfl⟩
  | _ =>
    simp only [shiftInstr] at h
    exact modifyInstr_goesOn h fun _ _ _ => ⟨rfl, rfl⟩

theorem branch_goesOn {taken : Bool} {d : Byte} (hnot : taken = false) (h : branch taken d s = .next t) :
    GoesOn 2 s t := by
  subst hnot
  cases h
  exact ⟨rfl, rfl⟩

theorem branch_run {taken : Bool} {d : Byte} (h : branch taken d s = .next t) : t.run = s.run := by
  cases taken <;> cases h <;> rfl

theorem execJmpInd_run {ptr : Addr} (h : execJmpInd ptr s = .next t) : t.run = s.run := by
  simp only [execJmpInd, finish_next, bind_ok, Prod.exists, Except.ok.injEq] at h
  obtain ⟨_, s1, hl, _, s2, hh, rfl⟩ := h
  exact ((busRead_sameControl hl).trans (busRead_sameControl hh)).run

/-- R150: the shared shapes, and an untaken branch, leave PC to `advance`. -/
theorem exec_goesOn {i : Instr} (h : exec i s = .next t) (hbrk : i ≠ .brk)
    (hpc : assignsPc i s.p = false) : GoesOn i.length s t := by
  cases i with
  | brk => exact absurd rfl hbrk
  | lda | ldx | ldy | adc | sbc | and | ora | eor | bit | cmp | cpx | cpy | ign | lax | las =>
    simp only [exec, execLda, execLdx, execLdy, execAdc, execSbc, execAnd, execOra, execEor, execBit, execCmp,
      execCpx, execCpy, execIgn, execLax, execLas] at h
    exact readInstr_goesOn h fun _ _ => ⟨rfl, rfl⟩
  | sta | stx | sty | sax | ahx | shx | shy => exact storeInstr_goesOn h
  | tas =>
    obtain ⟨hpc', hrun⟩ := storeInstr_goesOn h
    exact ⟨hpc', hrun⟩
  | inc | dec | dcp | isc =>
    simp only [exec, execInc, execDec, execDcp, execIsc] at h
    exact modifyInstr_goesOn h fun _ _ _ => ⟨rfl, rfl⟩
  | asl | lsr | rol | ror =>
    simp only [exec, execAsl, execLsr, execRol, execRor] at h
    exact shiftInstr_goesOn h
  | bcc | bcs | beq | bmi | bne | bpl | bvc | bvs => exact branch_goesOn hpc h
  | jmp | jmpInd | jsr | rts | rti => cases hpc
  | kil | unknown => cases h
  | tax | tay | txa | tya | tsx | txs | inx | iny | dex | dey | pha | pla | php | plp | clc | sec | cli | sei
  | cld | sed | clv | nop | nopIllegal | skb | anc | alr | arr | axs | sbcAlias =>
    cases h
    exact ⟨rfl, rfl⟩

/-- A control transfer leaves `run`. -/
theorem exec_run_of_assignsPc {i : Instr} (h : exec i s = .next t) (hpc : assignsPc i s.p = true) :
    t.run = s.run := by
  cases i with
  | jmp | jsr | rts | rti =>
    cases h
    rfl
  | jmpInd => exact execJmpInd_run h
  | bcc | bcs | beq | bmi | bne | bpl | bvc | bvs => exact branch_run h
  | _ => cases hpc

end

/-- Settles O8: an instruction other than BRK assigns PC or goes on. -/
theorem onlyBrkStopsTheRun : Obligations.OnlyBrkStopsTheRun := by
  intro i s t h
  split
  · rename_i hbrk
    subst hbrk
    cases h
    rfl
  · rename_i hbrk
    cases hpc : assignsPc i s.p with
    | true => exact exec_run_of_assignsPc h hpc
    | false => exact (exec_goesOn h hbrk hpc).run

/-- Settles O59: BRK too leaves PC after its byte. -/
theorem pcAdvancesUnlessAssigned : Obligations.PcAdvancesUnlessAssigned := by
  intro i s t h hpc
  by_cases hbrk : i = .brk
  · subst hbrk
    cases h
    rfl
  · exact (exec_goesOn h hbrk hpc).pc

end Sys2Proof.Machine
end

section
/-! When the shared shapes of an instruction complete, and when they end in a fatal. -/

namespace Sys2Proof.Machine

section
variable {m : Operand} {s : State} {e : Fault}

/-! ### An operand that can be read or written -/

/-- An instruction that is not well formed with the accumulator has another operand (R123, R124). -/
theorem ne_acc_of_wf {instr : Operand → Instr} (hacc : (instr .acc).wf = false) (h : (instr m).wf = true) :
    m ≠ .acc := by
  rintro rfl
  rw [hacc] at h
  cases h

theorem readOperand_ok (hm : m ≠ .acc) (h : OperandReadable m s) :
    ∃ v s1, readOperand m s = .ok (v, s1) := by
  cases m with
  | acc => exact absurd rfl hm
  | imm b => exact ⟨b, s, rfl⟩
  | _ => exact (readable_iff_busRead_ok _ s).1 (h _ nofun rfl)

/-- A store with a writable effective address is one bus write there (R166). -/
theorem storeInstr_of_writable (hm : m ≠ .acc) (h : OperandWritable m s) (v : Addr → Byte) :
    ∃ ea s1, resolve m s = .ok ea ∧ busWrite ea (v ea) s = .ok s1 ∧
      storeInstr m v s = .next { s1 with pc := s.pc + BitVec.ofNat 16 m.length } := by
  obtain ⟨ea, hea⟩ := resolve_ok hm s
  obtain ⟨s1, hw⟩ := (writable_iff_busWrite_ok ea (v ea) s).1 (h ea hea)
  refine ⟨ea, s1, hea, hw, storeInstr_next.2 ⟨ea, s1, hea, hw, ?_⟩⟩
  rw [← (busWrite_sameControl hw).pc]
  rfl

/-! ### A fatal of a data access -/

theorem readInstr_fault {f : Byte → State → State} :
    readInstr m f s = .fault e ↔ readOperand m s = .error e := by
  simp [readInstr, bind_error]

theorem storeInstr_fault {v : Addr → Byte} :
    storeInstr m v s = .fault e ↔
      resolve m s = .error e ∨ ∃ ea, resolve m s = .ok ea ∧ busWrite ea (v ea) s = .error e := by
  simp [storeInstr, bind_error]

theorem storeInstr_of_write_error {v : Addr → Byte} {ea : Addr} (hea : resolve m s = .ok ea)
    (hw : busWrite ea (v ea) s = .error e) : storeInstr m v s = .fault e :=
  storeInstr_fault.2 (.inr ⟨ea, hea, hw⟩)

theorem modifyInstr_fault {r : Byte → Byte} {g : Byte → Byte → State → State} :
    modifyInstr m r g s = .fault e ↔
      resolve m s = .error e ∨ ∃ ea, resolve m s = .ok ea ∧
        (busRead ea s = .error e ∨
          ∃ old s1, busRead ea s = .ok (old, s1) ∧ busWrite ea (r old) s1 = .error e) := by
  simp [modifyInstr, bind_error]

/-- A shift of an operand that resolves is a read-modify-write on memory (R234). -/
theorem shiftInstr_of_resolve {r : Byte → Byte} {out : Byte → Bool} {ea : Addr} (h : resolve m s = .ok ea) :
    shiftInstr m r out s = modifyInstr m r (fun old res t => setZN res (setFlag .c (out old) t)) s := by
  cases m with
  | acc => cases h
  | _ => rfl

end

end Sys2Proof.Machine
end

section
/-! O35, O36, O37: loads, stores and register transfers. -/

namespace Sys2Proof.Machine

theorem setZN_setsZN (v : Byte) (s : State) : SetsZN v s.p (setZN v s).p :=
  ⟨by rw [flag_setZN]; rfl, by rw [flag_setZN]; rfl, fun f hz hn => by rw [flag_setZN, if_neg hn, if_neg hz]⟩

/-- An instruction that puts its operand into registers by `put`, then sets Z and N from it. -/
theorem readInstr_load {m : Operand} {s : State} {put : Byte → State → State}
    (hput : ∀ v u, (put v u).p = u.p ∧ (put v u).pc = u.pc) (hm : m ≠ .acc) (h : OperandReadable m s) :
    ∃ v s1 t, readOperand m s = .ok (v, s1) ∧ readInstr m (fun v u => setZN v (put v u)) s = .next t ∧
      t = { put v s1 with p := t.p, pc := s.pc + BitVec.ofNat 16 m.length } ∧ SetsZN v s.p t.p := by
  obtain ⟨v, s1, hread⟩ := readOperand_ok hm h
  obtain ⟨hp, hpc⟩ := hput v s1
  refine ⟨v, s1, _, hread, readInstr_next.2 ⟨v, s1, hread, rfl⟩, ?_, ?_⟩
  · rw [← (readOperand_sameControl hread).pc, ← hpc]
    rfl
  · rw [← (readOperand_sameRegs hread).p, ← hp]
    exact setZN_setsZN v _

/-- Settles O35: four loads by `readInstr_load`, and IGN, which changes nothing after its read. -/
theorem loadsReadAndSetZN : Obligations.LoadsReadAndSetZN := by
  intro m s h
  refine ⟨fun hwf => ?_, fun hwf => ?_, fun hwf => ?_, fun hwf => ?_, fun opc hwf => ?_⟩
  · exact readInstr_load (put := fun v u => { u with a := v }) (fun _ _ => ⟨rfl, rfl⟩) (ne_acc_of_wf rfl hwf) h
  · exact readInstr_load (put := fun v u => { u with x := v }) (fun _ _ => ⟨rfl, rfl⟩) (ne_acc_of_wf rfl hwf) h
  · exact readInstr_load (put := fun v u => { u with y := v }) (fun _ _ => ⟨rfl, rfl⟩) (ne_acc_of_wf rfl hwf) h
  · exact readInstr_load (put := fun v u => { u with a := v, x := v }) (fun _ _ => ⟨rfl, rfl⟩)
      (ne_acc_of_wf rfl hwf) h
  · obtain ⟨v, s1, hread⟩ := readOperand_ok (ne_acc_of_wf rfl hwf) h
    simp only [exec, execIgn]
    refine ⟨v, s1, hread, readInstr_next.2 ⟨v, s1, hread, ?_⟩⟩
    rw [← (readOperand_sameControl hread).pc]
    rfl

/-- Settles O36: each store is one bus write, by `storeInstr_of_writable`. -/
theorem storesWriteOneByte : Obligations.StoresWriteOneByte := by
  intro m s h
  refine ⟨fun hwf => ?_, fun hwf => ?_, fun hwf => ?_, fun hwf => ?_⟩
  all_goals exact storeInstr_of_writable (ne_acc_of_wf rfl hwf) h _

/-- Settles O37: each transfer's own meaning, with `setZN_setsZN` for the flags. -/
theorem transfersCopyOneRegister : Obligations.TransfersCopyOneRegister := by
  refine ⟨by decide, fun s => ⟨?_, ?_, ?_, ?_, ?_, rfl⟩⟩
  all_goals exact ⟨_, rfl, rfl, setZN_setsZN _ _⟩

end Sys2Proof.Machine
end

section
/-! O54: a fatal of a data access is the instruction's fault. -/

namespace Sys2Proof.Machine

theorem shiftLeft_one_eq_add (b : Byte) : b <<< 1 = b + b :=
  (BitVec.mul_twoPow_eq_shiftLeft b 1).symm.trans BitVec.mul_two

/-- The carry rotated in at bit 0 is added to a byte with that bit clear (R232). -/
theorem shiftLeft_or_carryByte (b p : Byte) :
    b <<< 1 ||| carryByte p = b + b + (if flag p .c then 1 else 0) := by
  have hdisjoint : b <<< 1 &&& carryByte p = 0#8 := by
    unfold carryByte
    split
    · ext i
      grind
    · exact BitVec.and_zero
  rw [← BitVec.add_eq_or_of_and_eq_zero _ _ hdisjoint, shiftLeft_one_eq_add, carryByte]

/-- The carry rotated in at bit 7 is added to a byte with that bit clear (R233). -/
theorem ushiftRight_or_carryByte (b p : Byte) :
    b >>> 1 ||| carryByte p <<< 7 = b >>> 1 + (if flag p .c then 0x80 else 0) := by
  have hcarry : carryByte p <<< 7 = if flag p .c then 0x80 else 0 := by
    unfold carryByte
    split <;> rfl
  have hdisjoint : b >>> 1 &&& carryByte p <<< 7 = 0#8 := by
    ext i
    grind
  rw [← BitVec.add_eq_or_of_and_eq_zero _ _ hdisjoint, hcarry]

/-- No bus write depends on SP. -/
theorem busWrite_withSp (a : Addr) (v : Byte) (s : State) (sp : Byte) :
    busWrite a v { s with sp := sp } = (busWrite a v s).map fun t => { t with sp := sp } := by
  unfold busWrite ppuRegWrite
  split
  · rfl
  · split
    · cases ppuReg a with
      | data =>
        change (dataWrite s.cart v s.ppu >>= _) = _
        cases dataWrite s.cart v s.ppu <;> rfl
      | _ => rfl
    · rfl

theorem and_lowMask_eq_iff (w : Addr) : w &&& 0x00FF = 0x00FF ↔ loByte w = 0xFF := by
  have hmask : (w &&& 0x00FF).toNat = (loByte w).toNat := by
    rw [BitVec.toNat_and, loByte, BitVec.extractLsb'_toNat]
    exact Nat.and_two_pow_sub_one_eq_mod w.toNat 8
  rw [← BitVec.toNat_inj, hmask, ← BitVec.toNat_inj]
  rfl

theorem execJmpInd_fault {ptr : Addr} {s : State} {e : Fault} :
    execJmpInd ptr s = .fault e ↔ busRead ptr s = .error e ∨
      ∃ l s1, busRead ptr s = .ok (l, s1) ∧
        busRead (if ptr &&& 0x00FF = 0x00FF then ptr &&& 0xFF00 else ptr + 1) s1 = .error e := by
  simp only [execJmpInd, finish_fault, bind_error, Prod.exists, reduceCtorEq, and_false, exists_false, or_false,
    beq_iff_eq, and_lowMask_eq_iff]

/-- Settles O54: the shared shapes pass on the fatal of their data access; TAS has written SP by then, on which
no bus write depends. -/
theorem dataFatalsEndTheInstruction : Obligations.DataFatalsEndTheInstruction := by
  intro m s
  simp only [exec]
  refine ⟨fun e hread => ?_, fun ea e hea => ?_, ?_⟩
  · have hfault (f : Byte → State → State) : readInstr m f s = .fault e := readInstr_fault.2 hread
    refine ⟨hfault _, hfault _, hfault _, hfault _, hfault _, hfault _, hfault _, hfault _, hfault _, hfault _,
      hfault _, hfault _, hfault _, fun _ => hfault _, ?_⟩
    rintro w rfl
    exact hfault _
  · simp only [execAsl, execLsr, execRol, execRor, shiftInstr_of_resolve hea]
    refine ⟨fun hw => storeInstr_of_write_error hea hw, fun hw => storeInstr_of_write_error hea hw,
      fun hw => storeInstr_of_write_error hea hw, fun hw => storeInstr_of_write_error hea hw, fun hr => ?_,
      fun old s1 hr => ?_⟩
    · have hfault (r : Byte → Byte) (g : Byte → Byte → State → State) : modifyInstr m r g s = .fault e :=
        modifyInstr_fault.2 (.inr ⟨ea, hea, .inl hr⟩)
      exact ⟨hfault _ _, hfault _ _, hfault _ _, hfault _ _, hfault _ _, hfault _ _, hfault _ _, hfault _ _⟩
    · have hfault (r : Byte → Byte) (g : Byte → Byte → State → State)
          (hw : busWrite ea (r old) s1 = .error e) : modifyInstr m r g s = .fault e :=
        modifyInstr_fault.2 (.inr ⟨ea, hea, .inr ⟨old, s1, hr, hw⟩⟩)
      simp only [← shiftLeft_or_carryByte, ← ushiftRight_or_carryByte]
      refine ⟨fun hw => ⟨hfault _ _ hw, hfault _ _ hw⟩, fun hw => ⟨hfault _ _ hw, hfault _ _ hw⟩,
        fun hw => hfault _ _ ?_, fun hw => hfault _ _ hw, fun hw => hfault _ _ hw, fun hw => hfault _ _ hw⟩
      rw [shiftLeft_one_eq_add, hw]
  · refine fun w e => ⟨fun ea hea hw => storeInstr_of_write_error hea hw,
      fun ea hea => ⟨fun hw => storeInstr_of_write_error hea hw, fun hw => storeInstr_of_write_error hea ?_⟩,
      fun ea hea hw => storeInstr_of_write_error hea hw, fun hr => execJmpInd_fault.2 (.inl hr),
      fun l s1 hl hh => execJmpInd_fault.2 (.inr ⟨l, s1, hl, hh⟩)⟩
    rw [busWrite_withSp]
    exact congrArg (Except.map _) hw

end Sys2Proof.Machine
end

section
/-! The shared shapes on operands whose access completes: the one next state they answer. -/

namespace Sys2Proof.Machine

section
variable {m : Operand} {s : State}

/-- An instruction whose operand can be read answers the next state that its meaning `f` makes of the state after
the read; the read has changed the PPU side at most. -/
theorem readInstr_of_readable {f : Byte → State → State} {post : Byte → State → State → Prop}
    (hm : m ≠ .acc) (h : OperandReadable m s)
    (hpost : ∀ v u, post v { s with ppu := u } (advance m.length (f v { s with ppu := u }))) :
    ∃ v s1 t, readOperand m s = .ok (v, s1) ∧ readInstr m f s = .next t ∧ post v s1 t := by
  obtain ⟨v, s1, hread⟩ := readOperand_ok hm h
  refine ⟨v, s1, _, hread, readInstr_next.2 ⟨v, s1, hread, rfl⟩, ?_⟩
  rw [readOperand_effect hread]
  exact hpost v _

/-- Where a byte can be read and then written, the read completes and leaves the address writable (R86). -/
theorem Modifiable.busRead_ok {ea : Addr} (h : Modifiable ea s) :
    ∃ old u, busRead ea s = .ok (old, { s with ppu := u }) ∧ Writable ea { s with ppu := u } := by
  rcases h with hram | ⟨hport, hread, hcell⟩
  · exact ⟨_, s.ppu, busRead_ram hram, .inl hram⟩
  · obtain ⟨⟨old, u⟩, hdata⟩ := (portReadable_iff_dataRead_ok s).1 hread
    have haddr : u.addr = s.ppu.bump.addr := by
      rcases dataRead_cases hdata with ⟨-, -, -, rfl⟩ | ⟨-, -, -, k, -, rfl⟩ | ⟨-, -, -, rfl⟩ <;> rfl
    have hcell' : PortCell { s with ppu := u } := by
      simp only [PortCell, haddr]
      exact hcell
    refine ⟨old, u, ?_, .inr ⟨hport.1, .inr (.inr (.inr (.inr ⟨hport.2, hcell'⟩)))⟩⟩
    rw [busRead_port hport, hdata]
    rfl

/-- A read-modify-write whose effective address can be read and then written makes both accesses there, and answers
the next state that `g` makes of the state after them (R166); they have changed RAM and the PPU side at most. -/
theorem modifyInstr_of_modifiable {r : Byte → Byte} {g : Byte → Byte → State → State}
    {post : Byte → State → State → Prop} (hm : m ≠ .acc) (h : OperandModifiable m s)
    (hpost : ∀ old ram u, post old { s with cpuRam := ram, ppu := u }
      (advance m.length (g old (r old) { s with cpuRam := ram, ppu := u }))) :
    ∃ ea old s1 s2 t, resolve m s = .ok ea ∧ busRead ea s = .ok (old, s1) ∧ busWrite ea (r old) s1 = .ok s2 ∧
      modifyInstr m r g s = .next t ∧ post old s2 t := by
  obtain ⟨ea, hea⟩ := resolve_ok hm s
  obtain ⟨old, u, hread, hwritable⟩ := (h ea hea).busRead_ok
  obtain ⟨s2, hwrite⟩ := (writable_iff_busWrite_ok ea (r old) _).1 hwritable
  refine ⟨ea, old, _, s2, _, hea, hread, hwrite,
    modifyInstr_next.2 ⟨ea, old, _, s2, hea, hread, hwrite, rfl⟩, ?_⟩
  rw [(busWrite_effect hwrite).1]
  exact hpost old _ _

end

end Sys2Proof.Machine
end

section
/-! O38: the adder in integers, with and without sign. -/

namespace Sys2Proof.Machine

section
variable {a v p r q : Byte}

theorem carryByte_toNat (p : Byte) : (carryByte p).toNat = (flag p .c).toNat := by
  unfold carryByte
  cases flag p .c <;> rfl

/-! ### The sign bit -/

theorem getLsbD_seven (b : Byte) : b.getLsbD 7 = decide (128 ≤ b.toNat) :=
  (BitVec.msb_eq_getLsbD_last b).symm.trans (BitVec.msb_eq_decide b)

theorem and_signMask_ne_zero (b : Byte) : (b &&& 0x80 != 0) = b.getLsbD 7 := by
  have hmask : b &&& 0x80 = if b.getLsbD 7 then BitVec.twoPow 8 7 else 0#8 := BitVec.and_twoPow b 7
  rw [hmask]
  cases b.getLsbD 7 <;> rfl

/-- The formula of R216 compares the sign bits of the operands and of the result. -/
theorem overflowFormula_eq (a v r : Byte) :
    ((v ^^^ r) &&& (a ^^^ r) &&& 0x80 != 0) =
      (a.getLsbD 7 == v.getLsbD 7 && r.getLsbD 7 != a.getLsbD 7) := by
  rw [and_signMask_ne_zero, BitVec.getLsbD_and, BitVec.getLsbD_xor, BitVec.getLsbD_xor]
  cases a.getLsbD 7 <;> cases v.getLsbD 7 <;> cases r.getLsbD 7 <;> rfl

theorem toInt_cases (b : Byte) :
    (b.toNat < 128 ∧ b.toInt = b.toNat) ∨ (128 ≤ b.toNat ∧ b.toInt = (b.toNat : Int) - 256) := by
  rw [BitVec.toInt_eq_toNat_cond]
  split <;> omega

theorem toInt_not (b : Byte) : (~~~b).toInt = -b.toInt - 1 := by
  have hnot : (~~~b).toNat = 255 - b.toNat := BitVec.toNat_not
  have hlt := b.isLt
  have hb := toInt_cases b
  have hb' := toInt_cases (~~~b)
  omega

/-- A sum modulo 256 has the wrong sign for its operands exactly if it leaves -128 to 127 (R215). -/
theorem signs_eq_overflow {c : Nat} (hc : c ≤ 1) (hr : r.toNat = (a.toNat + v.toNat + c) % 256) :
    (a.getLsbD 7 == v.getLsbD 7 && r.getLsbD 7 != a.getLsbD 7) =
      decide (a.toInt + v.toInt + c < -128 ∨ 127 < a.toInt + v.toInt + c) := by
  have ha := toInt_cases a
  have hv := toInt_cases v
  rw [Bool.eq_iff_iff]
  simp only [getLsbD_seven, Bool.and_eq_true, beq_iff_eq, bne_iff_ne, ne_eq, decide_eq_decide, decide_eq_true_iff]
  omega

/-! ### The adder -/

/-- `AddToA` is the sum with carry (R216). -/
theorem addToA_addsWithCarry (v : Byte) (s : State) :
    AddsWithCarry s.a v s.p (addToA v s).a (addToA v s).p := by
  have ha := addToA_a v s
  refine ⟨?_, ?_, ?_, ?_, ?_, fun f hc hv hz hn => ?_⟩
  · rw [ha, BitVec.toNat_add, BitVec.toNat_add, carryByte_toNat, Nat.mod_add_mod]
  · rw [flag_addToA, carryByte_toNat]
    rfl
  · rw [flag_addToA, ← ha]
    exact overflowFormula_eq _ _ _
  · rw [flag_addToA, ← ha]
    rfl
  · rw [flag_addToA, ← ha]
    rfl
  · rw [flag_addToA, if_neg hn, if_neg hz, if_neg hv, if_neg hc]

/-- The difference with borrow is the sum with the complement (R201). -/
theorem subtractsWithBorrow_iff : SubtractsWithBorrow a v p r q ↔ AddsWithCarry a (~~~v) p r q := by
  have hnot : (~~~v).toNat = 255 - v.toNat := BitVec.toNat_not
  have hlt := v.isLt
  have hcarry := Bool.toNat_le (flag p .c)
  have hvalue : (r.toNat : Int) = ((a.toNat : Int) - v.toNat - (1 - (flag p .c).toNat)) % 256 ↔
      r.toNat = (a.toNat + (~~~v).toNat + (flag p .c).toNat) % 256 := by
    rw [hnot]
    omega
  have hc : decide (v.toNat + 1 ≤ a.toNat + (flag p .c).toNat) =
      decide (256 ≤ a.toNat + (~~~v).toNat + (flag p .c).toNat) := by
    rw [hnot, decide_eq_decide]
    omega
  have hv : (a.getLsbD 7 != v.getLsbD 7) = (a.getLsbD 7 == (~~~v).getLsbD 7) := by
    rw [BitVec.getLsbD_not]
    cases a.getLsbD 7 <;> cases v.getLsbD 7 <;> rfl
  rw [SubtractsWithBorrow, AddsWithCarry, hvalue, hc, hv]

/-- V of a sum is signed overflow and the formula of R216. -/
theorem AddsWithCarry.overflow (h : AddsWithCarry a v p r q) :
    flag q .v = decide (a.toInt + v.toInt + (flag p .c).toNat < -128 ∨
        127 < a.toInt + v.toInt + (flag p .c).toNat) ∧
      flag q .v = ((v ^^^ r) &&& (a ^^^ r) &&& 0x80 != 0) := by
  obtain ⟨hr, -, hv, -⟩ := h
  rw [hv, overflowFormula_eq]
  exact ⟨signs_eq_overflow (Bool.toNat_le _) hr, rfl⟩

/-- V of a difference is its signed overflow and the formula with the complement of the operand (R201, R215). -/
theorem SubtractsWithBorrow.overflow (h : SubtractsWithBorrow a v p r q) :
    flag q .v = decide (a.toInt - v.toInt - (1 - (flag p .c).toNat) < -128 ∨
        127 < a.toInt - v.toInt - (1 - (flag p .c).toNat)) ∧
      flag q .v = ((~~~v ^^^ r) &&& (a ^^^ r) &&& 0x80 != 0) := by
  obtain ⟨hsigned, hformula⟩ := (subtractsWithBorrow_iff.1 h).overflow
  refine ⟨?_, hformula⟩
  rw [hsigned, toInt_not, decide_eq_decide]
  omega

end

/-- `AddToA` of the complement is the difference with borrow (R201). -/
theorem addToA_not_subtractsWithBorrow (v : Byte) (s : State) :
    SubtractsWithBorrow s.a v s.p (addToA (~~~v) s).a (addToA (~~~v) s).p :=
  subtractsWithBorrow_iff.2 (addToA_addsWithCarry (~~~v) s)

/-- Settles O38: ADC is `AddToA` of the operand, SBC and $EB are `AddToA` of its complement. -/
theorem adcSbcAreBinaryAddAndSubtract : Obligations.AdcSbcAreBinaryAddAndSubtract := by
  intro m s h
  simp only [exec, execAdc, execSbc]
  refine ⟨fun hwf => ?_, fun hwf => ?_, fun v => ⟨_, rfl, rfl, addToA_not_subtractsWithBorrow v s, rfl⟩⟩
  · exact readInstr_of_readable (ne_acc_of_wf rfl hwf) h fun v _ => ⟨rfl, addToA_addsWithCarry v _⟩
  · exact readInstr_of_readable (ne_acc_of_wf rfl hwf) h fun v _ => ⟨rfl, addToA_not_subtractsWithBorrow v _⟩

end Sys2Proof.Machine
end

section
/-! O39 to O43: overflow, logic, compares, increments and decrements. -/

namespace Sys2Proof.Machine

theorem compare_setsCZN (r m : Byte) (s : State) :
    SetsCZN (decide (m.toNat ≤ r.toNat)) (r - m) s.p (compare r m s).p :=
  ⟨by rw [flag_compare]; rfl, by rw [flag_compare]; rfl, by rw [flag_compare]; rfl,
    fun f hc hz hn => by rw [flag_compare, if_neg hn, if_neg hz, if_neg hc]⟩

/-- Settles O40: the three combinations end in `SetZN`; BIT writes its three flags one after the other. -/
theorem logicAndBitTest : Obligations.LogicAndBitTest := by
  intro m s h
  simp only [exec, execAnd, execOra, execEor, execBit]
  refine ⟨fun hwf => ?_, fun hwf => ?_, fun hwf => ?_, fun hwf => ?_⟩
  case refine_4 =>
    refine readInstr_of_readable (ne_acc_of_wf rfl hwf) h fun v u => ⟨rfl, ?_, ?_, ?_, fun f hz hn hv => ?_⟩
    all_goals simp only [advance_p, setFlag_p, flag_putFlag]
    · rfl
    · rfl
    · rfl
    · rw [if_neg hv, if_neg hn, if_neg hz]
  all_goals exact readInstr_of_readable (ne_acc_of_wf rfl hwf) h fun _ _ => ⟨rfl, setZN_setsZN _ _⟩

/-- Settles O41: each compare is `Compare` of its register with the operand, by `compare_setsCZN`. -/
theorem comparesSetCZN : Obligations.ComparesSetCZN := by
  intro m s h
  simp only [exec, execCmp, execCpx, execCpy]
  refine ⟨fun hwf => ?_, fun hwf => ?_, fun hwf => ?_⟩
  all_goals exact readInstr_of_readable (ne_acc_of_wf rfl hwf) h fun _ _ => ⟨rfl, compare_setsCZN _ _ _⟩

/-- Settles O42: the two accesses by `modifyInstr_of_modifiable`, then SetZN, Compare or the adder. -/
theorem incrementAndDecrementMemory : Obligations.IncrementAndDecrementMemory := by
  intro m s h
  simp only [exec, execInc, execDec, execDcp, execIsc]
  refine ⟨fun hwf => ?_, fun hwf => ?_, fun hwf => ?_, fun hwf => ?_⟩
  · exact modifyInstr_of_modifiable (ne_acc_of_wf rfl hwf) h fun _ _ _ => ⟨rfl, setZN_setsZN _ _⟩
  · exact modifyInstr_of_modifiable (ne_acc_of_wf rfl hwf) h fun _ _ _ => ⟨rfl, setZN_setsZN _ _⟩
  · exact modifyInstr_of_modifiable (ne_acc_of_wf rfl hwf) h fun _ _ _ => ⟨rfl, compare_setsCZN _ _ _⟩
  · exact modifyInstr_of_modifiable (ne_acc_of_wf rfl hwf) h fun _ _ _ =>
      ⟨rfl, addToA_not_subtractsWithBorrow _ _⟩

/-- Settles O39: V of the sum, of the difference and, for ISC, of the difference that O42 gives. -/
theorem overflowFlagIsSignedOverflow : Obligations.OverflowFlagIsSignedOverflow := by
  intro m s c sumV diffV
  refine ⟨fun h => ⟨fun hwf => ?_, fun hwf => ?_⟩, fun v => ?_, fun h hwf => ?_⟩
  · obtain ⟨hadc, -, -⟩ := adcSbcAreBinaryAddAndSubtract m s h
    obtain ⟨v, s1, t, hread, hexec, -, hsum⟩ := hadc hwf
    exact ⟨v, s1, t, hread, hexec, hsum.overflow⟩
  · obtain ⟨-, hsbc, -⟩ := adcSbcAreBinaryAddAndSubtract m s h
    obtain ⟨v, s1, t, hread, hexec, -, hdiff⟩ := hsbc hwf
    exact ⟨v, s1, t, hread, hexec, hdiff.overflow⟩
  · exact ⟨_, rfl, (addToA_not_subtractsWithBorrow v s).overflow⟩
  · obtain ⟨-, -, -, hisc⟩ := incrementAndDecrementMemory m s h
    obtain ⟨ea, old, s1, s2, t, hea, hread, hwrite, hexec, -, hdiff⟩ := hisc hwf
    exact ⟨ea, old, s1, s2, t, hea, hread, hwrite, hexec, hdiff.overflow⟩

/-- Settles O43: each instruction's own meaning, with `setZN_setsZN` for the flags. -/
theorem incrementAndDecrementIndex : Obligations.IncrementAndDecrementIndex := by
  refine ⟨by decide, fun s => ⟨?_, ?_, ?_, ?_⟩⟩
  all_goals exact ⟨_, rfl, rfl, setZN_setsZN _ _⟩

end Sys2Proof.Machine
end

section
/-! O44: shifts and rotates. -/

namespace Sys2Proof.Machine

theorem setZN_setFlag_setsCZN (c : Bool) (v : Byte) (s : State) :
    SetsCZN c v s.p (setZN v (setFlag .c c s)).p := by
  refine ⟨?_, ?_, ?_, fun f hc hz hn => ?_⟩
  all_goals rw [flag_setZN]
  · rw [setFlag_p, flag_putFlag]
    rfl
  · rfl
  · rfl
  · rw [if_neg hn, if_neg hz, setFlag_p, flag_putFlag, if_neg hc]

section
variable (r : Byte → Byte) (out : Byte → Bool)

/-- The accumulator variant of R234. -/
theorem shiftInstr_acc (s : State) :
    ∃ t, shiftInstr .acc r out s = .next t ∧ t = { s with a := r s.a, p := t.p, pc := s.pc + 1 } ∧
      SetsCZN (out s.a) (r s.a) s.p t.p :=
  ⟨_, rfl, rfl, setZN_setFlag_setsCZN _ _ _⟩

/-- The memory variant of R234, where the byte can be read and then written. -/
theorem shiftInstr_of_modifiable {m : Operand} {s : State} (hm : m ≠ .acc) (h : OperandModifiable m s) :
    ∃ ea old s1 s2 t, resolve m s = .ok ea ∧ busRead ea s = .ok (old, s1) ∧ busWrite ea (r old) s1 = .ok s2 ∧
      shiftInstr m r out s = .next t ∧ t = { s2 with p := t.p, pc := s.pc + BitVec.ofNat 16 m.length } ∧
      SetsCZN (out old) (r old) s.p t.p := by
  obtain ⟨ea, hea⟩ := resolve_ok hm s
  rw [shiftInstr_of_resolve hea]
  exact modifyInstr_of_modifiable hm h fun _ _ _ => ⟨rfl, setZN_setFlag_setsCZN _ _ _⟩

end

/-- Settles O44: the two variants of R234, with the bit shifted in and the doubling written as sums. -/
theorem shiftsAndRotates : Obligations.ShiftsAndRotates := by
  intro s
  simp only [exec, execAsl, execLsr, execRol, execRor, shiftLeft_or_carryByte, ushiftRight_or_carryByte]
  simp only [shiftLeft_one_eq_add]
  refine ⟨shiftInstr_acc _ _ s, shiftInstr_acc _ _ s, shiftInstr_acc _ _ s, shiftInstr_acc _ _ s,
    fun m hm h => ⟨fun _ => ?_, fun _ => ?_, fun _ => ?_, fun _ => ?_⟩⟩
  all_goals exact shiftInstr_of_modifiable _ _ hm h

end Sys2Proof.Machine
end

section
/-! The stack operations (R240 to R243, R247) as whole states, with the cell of `cpu_ram` that each reaches. -/

namespace Sys2Proof.Machine

/-- The stack page is 0x0100 to 0x01FF, without a mirror in between (R24, R66). -/
theorem ramIndex_stackAddr (sp : Byte) : ramIndex (stackAddr sp) = 0x100 + sp.toNat := by
  have hlt := sp.isLt
  rw [ramIndex_eq_mod, stackAddr, word_toNat]
  change (1 * 256 + sp.toNat) % 2048 = 256 + sp.toNat
  omega

/-- Counting up from SP + 1 in the page is counting up from SP, one further. -/
theorem toNat_add_one_add_mod (sp : Byte) (n : Nat) :
    ((sp + 1).toNat + n) % 256 = (sp.toNat + (1 + n)) % 256 := by
  rw [BitVec.toNat_add, ← Nat.add_assoc]
  exact Nat.mod_add_mod _ _ _

theorem push_eq (v : Byte) (s : State) :
    push v s = { s with cpuRam := s.cpuRam.write (0x100 + s.sp.toNat) v, sp := s.sp - 1 } := by
  rw [push, ramWrite, ramIndex_stackAddr]

theorem pop_eq (s : State) :
    pop s = (s.cpuRam.read (0x100 + (s.sp.toNat + 1) % 256), { s with sp := s.sp + 1 }) := by
  rw [pop, ramRead, ramIndex_stackAddr]
  rfl

theorem popStatus_eq (s : State) :
    popStatus s =
      { s with sp := s.sp + 1, p := statusPopped (s.cpuRam.read (0x100 + (s.sp.toNat + 1) % 256)) } := by
  rw [popStatus, pop_eq]

/-- High byte at SP, low byte one below it, modulo 256 in the page (R242). -/
theorem pushWord_eq (w : Addr) (s : State) :
    pushWord w s = { s with
      cpuRam := (s.cpuRam.write (0x100 + s.sp.toNat) (hiByte w)).write
        (0x100 + (s.sp.toNat + 255) % 256) (loByte w)
      sp := s.sp - 2 } := by
  have hcell : (s.sp - 1).toNat = (s.sp.toNat + 255) % 256 := by
    rw [BitVec.toNat_sub, Nat.add_comm]
    rfl
  have hsp : s.sp - 1 - 1 = s.sp - 2 := BitVec.sub_sub _ _ _
  simp only [pushWord, push_eq, hcell, hsp]

/-- Low byte one above SP, high byte two above it, modulo 256 in the page (R243). -/
theorem popWord_eq (s : State) :
    popWord s =
      (word (s.cpuRam.read (0x100 + (s.sp.toNat + 2) % 256)) (s.cpuRam.read (0x100 + (s.sp.toNat + 1) % 256)),
        { s with sp := s.sp + 2 }) := by
  have hsp : s.sp + 1 + 1 = s.sp + 2 := BitVec.add_assoc _ _ _
  simp only [popWord, pop_eq, hsp, toNat_add_one_add_mod]

end Sys2Proof.Machine
end

section
/-! O45, O46: pushes, pulls, calls and returns. -/

namespace Sys2Proof.Machine

/-- Settles O45: one `Push` or `Pop` each, by `push_eq`, `pop_eq` and `popStatus_eq`. -/
theorem pushesAndPulls : Obligations.PushesAndPulls := by
  refine ⟨by decide, fun s => ⟨?_, ?_, ?_, ?_⟩⟩
  · rw [exec, execPha, push_eq]
    rfl
  · rw [exec, execPhp, push_eq]
    rfl
  · rw [exec, execPla, pop_eq]
    exact ⟨_, rfl, rfl, setZN_setsZN _ _⟩
  · rw [exec, execPlp, popStatus_eq]
    rfl

/-- Settles O46: one word pushed or popped each, by `pushWord_eq` and `popWord_eq`; RTI pops P before it. -/
theorem callAndReturns : Obligations.CallAndReturns := by
  intro s w cell
  refine ⟨?_, ?_, ?_⟩
  · rw [exec, execJsr, pushWord_eq]
    rfl
  · rw [exec, execRts, popWord_eq]
    rfl
  · have hsp : s.sp + 1 + 2 = s.sp + 3 := BitVec.add_assoc _ _ _
    rw [exec, execRti, popStatus_eq, popWord_eq]
    simp only [toNat_add_one_add_mod, hsp]
    rfl

end Sys2Proof.Machine
end

section
/-! O47: a pop gives back what was pushed. A pop looks at SP and `cpu_ram` only, so its lemmas are about any state `u`
that has the two as the push left them. -/

namespace Sys2Proof.Machine

/-- PLP undoes what PHP did to the break bits, where they were as between instructions (R246, R247). -/
theorem statusPopped_statusPushed {p : Byte} (h : breakBits p = true) : statusPopped (statusPushed p) = p := by
  obtain ⟨hb1, hb2⟩ : flag p .b1 = false ∧ flag p .b2 = true := by simpa [breakBits] using h
  refine status_ext fun f => ?_
  cases f with
  | b1 => rw [flag_statusPopped, hb1]; rfl
  | b2 => rw [flag_statusPopped, hb2]; rfl
  | _ => simp

section
variable {s u : State}

theorem pop_of_push {v : Byte} (hwf : s.cpuRam.wf = true) (hram : u.cpuRam = (push v s).cpuRam)
    (hsp : u.sp = (push v s).sp) : pop u = (v, { u with sp := s.sp }) := by
  have hback : u.sp + 1 = s.sp := by rw [hsp, push_sp, BitVec.sub_add_cancel]
  rw [pop, ramRead, hback, hram, push_cpuRam, Memory.read_write_same hwf]

theorem popWord_of_pushWord {w : Addr} (hwf : s.cpuRam.wf = true) (hram : u.cpuRam = (pushWord w s).cpuRam)
    (hsp : u.sp = (pushWord w s).sp) : popWord u = (w, { u with sp := s.sp }) := by
  have hlow : pop u = (loByte w, { u with sp := s.sp - 1 }) :=
    pop_of_push (s := push (hiByte w) s) (Memory.wf_write hwf _ _) hram hsp
  have hcells : ramIndex (stackAddr s.sp) ≠ ramIndex (stackAddr (s.sp - 1)) := by
    rw [ramIndex_stackAddr, ramIndex_stackAddr]
    bv_omega
  have hhigh : pop { u with sp := s.sp - 1 } = (hiByte w, { u with sp := s.sp }) := by
    rw [pop, ramRead, BitVec.sub_add_cancel, hram, pushWord_cpuRam, Memory.read_write_other _ _ hcells,
      Memory.read_write_same hwf]
  rw [popWord, hlow]
  simp only [hhigh, word_hiByte_loByte]

theorem popStatus_of_push {p : Byte} (hwf : s.cpuRam.wf = true) (hbits : breakBits p = true)
    (hram : u.cpuRam = (push (statusPushed p) s).cpuRam) (hsp : u.sp = (push (statusPushed p) s).sp) :
    popStatus u = { u with sp := s.sp, p := p } := by
  rw [popStatus, pop_of_push hwf hram hsp]
  simp only [statusPopped_statusPushed hbits]

end

/-- Settles O47: each pop of a pair undoes its push, also at the state where PLP or RTS starts. -/
theorem stackPairsRestore : Obligations.StackPairsRestore := by
  intro s hwf
  refine ⟨fun v => ?_, fun w => ?_, fun hbits t hphp => ?_, fun w t u hjsr hram hsp => ?_⟩
  · rw [pop_of_push hwf rfl rfl]
    exact ⟨rfl, rfl, rfl⟩
  · rw [popWord_of_pushWord hwf rfl rfl]
    exact ⟨rfl, rfl⟩
  · cases hphp
    have hpc : s.pc + 1 + 1 = s.pc + 2 := BitVec.add_assoc _ _ _
    have hpop := popStatus_of_push (u := advance 1 (push (statusPushed s.p) s)) hwf hbits rfl rfl
    rw [exec, execPlp, hpop, ← hpc]
    rfl
  · cases hjsr
    have hpc : s.pc + 2 + 1 = s.pc + 3 := BitVec.add_assoc _ _ _
    rw [exec, execRts, popWord_of_pushWord hwf hram hsp, ← hpc]

end Sys2Proof.Machine
end

section
/-! O10, O48: the branches in integers, and the operand byte that is not read. -/

namespace Sys2Proof.Machine

/-- The displacement counts from the address after the branch, as a signed number modulo 65,536 (R11, R260). -/
theorem add_two_add_sext (pc : Addr) (d : Byte) :
    pc + 2 + sext d = BitVec.ofInt 16 ((pc.toNat : Int) + 2 + d.toInt) := by
  rw [BitVec.ofInt_add, BitVec.ofInt_add, BitVec.ofInt_natCast, BitVec.ofNat_toNat, BitVec.setWidth_eq]
  rfl

theorem branch_eq (taken : Bool) (d : Byte) (s : State) :
    branch taken d s = .next { s with
      pc := if taken then BitVec.ofInt 16 ((s.pc.toNat : Int) + 2 + d.toInt) else s.pc + 2 } := by
  cases taken with
  | false => rfl
  | true => rw [branch, add_two_add_sext]; rfl

/-- Settles O48: each branch is the common branch on its flag, whose target is the integer sum. -/
theorem branchesTestOneFlag : Obligations.BranchesTestOneFlag := by
  intro s d
  simp only [exec, execBcc, execBcs, execBeq, execBne, execBmi, execBpl, execBvc, execBvs, branch_eq,
    beq_false, beq_true, true_and]
  exact ⟨rfl, rfl, rfl, rfl, rfl, rfl, rfl, rfl⟩

theorem branch_untaken {taken : Bool} (h : taken = false) (d : Byte) (s : State) :
    branch taken d s = .next { s with pc := s.pc + 2 } := by
  rw [h]
  rfl

/-- An instruction that does not read its one operand byte, SKB or a branch not taken, only goes on (R260, R301). -/
theorem exec_of_unread_operand {i : Instr} {s : State} (hlength : i.length = 2)
    (hreads : operandReads i s.p = 0) : exec i s = .next { s with pc := s.pc + 2 } := by
  cases i with
  | skb => rfl
  | bcc | bne | bpl | bvc =>
    simp only [operandReads, ite_eq_left_iff, one_ne_zero, imp_false, not_not] at hreads
    exact branch_untaken (by rw [hreads]; rfl) _ s
  | bcs | beq | bmi | bvs =>
    simp only [operandReads, ite_eq_right_iff, one_ne_zero, imp_false, Bool.not_eq_true] at hreads
    exact branch_untaken hreads _ s
  | _ =>
    have hall : _ - 1 = 0 := hreads
    rw [hlength] at hall
    cases hall

/-- Settles O10: the fetch ends after the opcode byte, and the instruction found there only goes on. -/
theorem unreadOperandByteIsSkipped : Obligations.UnreadOperandByteIsSkipped := by
  intro s s1 opc hrun hhost hread hunread
  have heffect := busRead_effect hread
  have hpc : s1.pc = s.pc := by rw [heffect]
  have hp : s1.p = s.p := by rw [heffect]
  have hinstr : (instrAt opc 0x00 0x00).length = 2 ∧ operandReads (instrAt opc 0x00 0x00) s.p = 0 := by
    rcases hunread with ⟨rfl, hc⟩ | ⟨rfl, hc⟩ | ⟨rfl, hz⟩ | ⟨rfl, hz⟩ | ⟨rfl, hn⟩ | ⟨rfl, hn⟩ |
      ⟨rfl, hv⟩ | ⟨rfl, hv⟩ | hskb
    · exact ⟨rfl, if_pos hc⟩
    · exact ⟨rfl, if_neg (Bool.eq_false_iff.1 hc)⟩
    · exact ⟨rfl, if_neg (Bool.eq_false_iff.1 hz)⟩
    · exact ⟨rfl, if_pos hz⟩
    · exact ⟨rfl, if_neg (Bool.eq_false_iff.1 hn)⟩
    · exact ⟨rfl, if_pos hn⟩
    · exact ⟨rfl, if_pos hv⟩
    · exact ⟨rfl, if_neg (Bool.eq_false_iff.1 hv)⟩
    · rw [(instrAt_eq_iff_wf (i := .skb opc 0x00) rfl rfl).2 (List.contains_iff_mem.2 hskb)]
      exact ⟨rfl, rfl⟩
  obtain ⟨hlength, hreads⟩ := hinstr
  rw [step_of_fetch_ok hrun (runHost_identity hhost) (fetch_of_no_operandReads hread hreads), ← hpc]
  exact exec_of_unread_operand hlength (hp ▸ hreads)

end Sys2Proof.Machine
end

section
/-! O49: jumps. JMP indirect reads both its pointer bytes without a side effect, because the byte that follows or
precedes a data port in its page is a register that cannot be read. -/

namespace Sys2Proof.Machine

section
variable {addr : Addr} {s : State}

/-! ### The registers of the PPU window that can be read, by the three low bits of the address (R67) -/

theorem toNat_and_seven (addr : Addr) : (addr &&& 0x0007).toNat = addr.toNat % 8 := by
  rw [BitVec.toNat_and]
  exact Nat.and_two_pow_sub_one_eq_mod addr.toNat 3

theorem ppuReg_eq_status_iff (addr : Addr) : ppuReg addr = .status ↔ addr.toNat % 8 = 2 := by
  rw [ppuReg, toNat_and_seven]
  split <;> grind

theorem ppuReg_eq_data_iff (addr : Addr) : ppuReg addr = .data ↔ addr.toNat % 8 = 7 := by
  rw [ppuReg, toNat_and_seven]
  split <;> grind

theorem Readable.toNat_mod_of_inPpu (h : Readable addr s) (hppu : InPpu addr) :
    addr.toNat % 8 = 2 ∨ addr.toNat % 8 = 7 := by
  obtain ⟨hlow, hhigh⟩ := hppu
  rcases h with hram | hrom | ⟨-, hstatus | ⟨hdata, -⟩⟩
  · bv_omega
  · bv_omega
  · exact .inl ((ppuReg_eq_status_iff addr).1 hstatus)
  · exact .inr ((ppuReg_eq_data_iff addr).1 hdata)

/-- Off the data port a read that completes changes nothing. -/
theorem Readable.busRead_off_port (h : Readable addr s) (hport : ¬ IsDataPort addr) :
    ∃ v, busRead addr s = .ok (v, s) := by
  obtain ⟨v, t, hread⟩ := (readable_iff_busRead_ok addr s).1 h
  cases busRead_pure hread hport
  exact ⟨v, hread⟩

end

/-! ### The pointer of JMP indirect -/

/-- The address of the second pointer byte of JMP indirect, in the page of the first (R281). -/
theorem jmpInd_second_of_mask (ptr : Addr) :
    (if ptr &&& 0x00FF = 0x00FF then ptr &&& 0xFF00 else ptr + 1) = word (hiByte ptr) (loByte ptr + 1) := by
  simpa only [and_lowMask_eq_iff, beq_iff_eq] using jmpInd_second ptr

section
variable (ptr : Addr)

theorem jmpInd_second_toNat :
    (word (hiByte ptr) (loByte ptr + 1)).toNat = ptr.toNat / 256 * 256 + (ptr.toNat + 1) % 256 := by
  have hhi : (hiByte ptr).toNat = ptr.toNat / 256 := by
    rw [hiByte, BitVec.extractLsb'_toNat, Nat.shiftRight_eq_div_pow]
    exact Nat.mod_eq_of_lt (Nat.div_lt_of_lt_mul ptr.isLt)
  have hlo : (loByte ptr + 1).toNat = (ptr.toNat + 1) % 256 := by
    rw [BitVec.toNat_add, loByte, BitVec.extractLsb'_toNat, Nat.shiftRight_zero]
    exact Nat.mod_add_mod ptr.toNat 256 1
  rw [word_toNat, hhi, hlo]

/-- Both pointer bytes lie in one page, and the PPU window is made of whole pages. -/
theorem inPpu_jmpInd_second_iff : InPpu (word (hiByte ptr) (loByte ptr + 1)) ↔ InPpu ptr := by
  have hsecond := jmpInd_second_toNat ptr
  unfold InPpu
  bv_omega

theorem jmpInd_second_toNat_mod : (word (hiByte ptr) (loByte ptr + 1)).toNat % 8 = (ptr.toNat + 1) % 8 := by
  have hsecond := jmpInd_second_toNat ptr
  omega

end

/-- A pointer whose two bytes can be read lies nowhere on the data port: the neighbours of a data port in its page
are the address register and the control register, and neither can be read. -/
theorem not_isDataPort_of_readable_pointer {ptr : Addr} {s : State} (hfirst : Readable ptr s)
    (hsecond : Readable (word (hiByte ptr) (loByte ptr + 1)) s) :
    ¬ IsDataPort ptr ∧ ¬ IsDataPort (word (hiByte ptr) (loByte ptr + 1)) := by
  have hmod := jmpInd_second_toNat_mod ptr
  constructor <;> rintro ⟨hppu, hdata⟩ <;> rw [ppuReg_eq_data_iff] at hdata
  · have hregister := hsecond.toNat_mod_of_inPpu ((inPpu_jmpInd_second_iff ptr).2 hppu)
    omega
  · have hregister := hfirst.toNat_mod_of_inPpu ((inPpu_jmpInd_second_iff ptr).1 hppu)
    omega

theorem execJmpInd_of_reads {ptr : Addr} {s s1 s2 : State} {l h : Byte} (hl : busRead ptr s = .ok (l, s1))
    (hh : busRead (word (hiByte ptr) (loByte ptr + 1)) s1 = .ok (h, s2)) :
    execJmpInd ptr s = .next { s2 with pc := word h l } := by
  rw [execJmpInd, jmpInd_second, finish_next]
  exact bind_ok.2 ⟨_, hl, bind_ok.2 ⟨_, hh, rfl⟩⟩

/-- Settles O49: neither pointer byte is at the data port, so both reads leave the state as it is. -/
theorem jumpsLoadPc : Obligations.JumpsLoadPc := by
  intro s w
  refine ⟨rfl, ?_⟩
  rw [jmpInd_second_of_mask]
  intro next hfirst hsecond
  obtain ⟨hport, hport'⟩ := not_isDataPort_of_readable_pointer hfirst hsecond
  obtain ⟨l, hl⟩ := hfirst.busRead_off_port hport
  obtain ⟨h, hh⟩ := hsecond.busRead_off_port hport'
  exact ⟨l, h, hl, hh, execJmpInd_of_reads hl hh⟩

end Sys2Proof.Machine
end

section
/-! O50, O51: the flag instructions and the instructions without an effect. -/

namespace Sys2Proof.Machine

theorem putFlag_setsFlag (g : Flag) (b : Bool) (p : Byte) : SetsFlag g b p (putFlag p g b) := by
  refine ⟨?_, fun f hf => ?_⟩ <;> rw [flag_putFlag]
  · rw [if_pos rfl]
  · rw [if_neg hf]

/-- The shape of every flag instruction: one flag written, then the next opcode byte (R282 to R288). -/
theorem advance_setFlag (g : Flag) (b : Bool) (s : State) :
    ∃ t, Host.Outcome.next (advance 1 (setFlag g b s)) = (.next t : Result State) ∧
      t = { s with p := t.p, pc := s.pc + 1 } ∧ SetsFlag g b s.p t.p :=
  ⟨_, rfl, rfl, putFlag_setsFlag g b s.p⟩

/-- Settles O50: each flag instruction has the common shape, with its own flag and value. -/
theorem flagInstructionsWriteOneFlag : Obligations.FlagInstructionsWriteOneFlag :=
  ⟨by decide, fun s => ⟨advance_setFlag .c false s, advance_setFlag .c true s, advance_setFlag .i false s,
    advance_setFlag .i true s, advance_setFlag .d false s, advance_setFlag .d true s, advance_setFlag .v false s⟩⟩

/-- Settles O51: NOP and its variants are the advance alone, and SKB does not read its operand byte. -/
theorem noOperationsOnlyAdvancePc : Obligations.NoOperationsOnlyAdvancePc :=
  ⟨rfl, fun _ _ _ => ⟨rfl, rfl, exec_of_unread_operand rfl rfl⟩⟩

end Sys2Proof.Machine
end

section
/-! O17, O18: the OAM ports, the unmapped addresses and the address register. -/

namespace Sys2Proof.Machine

/-- Settles O17: both OAM ports have a fatal arm for either access, and nothing answers in the gap. -/
theorem oamPortsAndUnmappedAreFatal : Obligations.OamPortsAndUnmappedAreFatal := by
  rintro addr v s (⟨hppu, hreg⟩ | ⟨hlow, hhigh⟩)
  · rw [busRead_ppu hppu, busWrite_ppu hppu, ppuRegRead, ppuRegWrite]
    rcases hreg with hreg | hreg <;> rw [ppuReg_of_register hreg] <;> exact ⟨rfl, rfl⟩
  · exact ⟨busRead_unmapped hlow hhigh, busWrite_above_ppu hlow⟩

theorem Ppu.writeAddr_of_hi (v : Byte) {u : Ppu} (h : u.addrLatch = .hi) :
    u.writeAddr v = { u with addr := word v (loByte u.addr), addrLatch := .lo } := by
  rw [Ppu.writeAddr, h]

theorem Ppu.writeAddr_of_lo (v : Byte) {u : Ppu} (h : u.addrLatch = .lo) :
    u.writeAddr v = { u with addr := word (hiByte u.addr) v, addrLatch := .hi } := by
  rw [Ppu.writeAddr, h]

theorem hiByte_word (h l : Byte) : hiByte (word h l) = h :=
  BitVec.extractLsb'_append_eq_left

/-- The second write keeps the half that the first one filled, and turns the latch back. -/
theorem Ppu.writeAddr_writeAddr {u : Ppu} (h : u.addrLatch = .hi) (v w : Byte) :
    (u.writeAddr v).writeAddr w = { u with addr := word v w } := by
  rw [Ppu.writeAddr_of_hi v h, Ppu.writeAddr_of_lo w rfl, hiByte_word, ← h]

/-- Settles O18: a write is `writeAddr` for either latch, and the register has no read arm. -/
theorem addrRegisterIsTwoWritesHighFirst : Obligations.AddrRegisterIsTwoWritesHighFirst := by
  intro addr v w s hppu hreg
  have hselects : ppuReg addr = .addr := ppuReg_of_register hreg
  have hwrite (b : Byte) (u : State) : busWrite addr b u = .ok { u with ppu := u.ppu.writeAddr b } := by
    rw [busWrite_ppu hppu, ppuRegWrite, hselects]
  refine ⟨fun hlatch => ?_, fun hlatch => ?_, fun hlatch t ht => ?_, ?_⟩
  · rw [hwrite, Ppu.writeAddr_of_hi v hlatch]
    rfl
  · rw [hwrite, Ppu.writeAddr_of_lo v hlatch]
    rfl
  · cases (hwrite v s).symm.trans ht
    rw [hwrite, Ppu.writeAddr_writeAddr hlatch]
    rfl
  · rw [busRead_ppu hppu, ppuRegRead, hselects]
    rfl

end Sys2Proof.Machine
end

section
/-! O21: the palette aliases. -/

namespace Sys2Proof.Machine

theorem palIndex_eq_mod (a : Addr) :
    palIndex a = if a.toNat % 32 = 16 ∨ a.toNat % 32 = 20 ∨ a.toNat % 32 = 24 ∨ a.toNat % 32 = 28
      then a.toNat % 32 - 16 else a.toNat % 32 := by
  have hmask : (a &&& 0x1F).toNat = a.toNat % 32 := by
    rw [BitVec.toNat_and]
    exact Nat.and_two_pow_sub_one_eq_mod a.toNat 5
  rw [palIndex, hmask]

theorem Memory.read_write {m : Memory} (h : m.wf = true) (j k : Nat) (v : Byte) :
    (m.write k v).read j = if j = k then v else m.read j := by
  split
  · rename_i hjk
    rw [hjk, Memory.read_write_same h]
  · rename_i hjk
    exact Memory.read_write_other m v hjk

/-- Settles O21: both accesses reach the cell that `palIndex` names, and a canonical array reads back. -/
theorem paletteAliasesShareACell : Obligations.PaletteAliasesShareACell := by
  refine ⟨fun a _ _ => palIndex_eq_mod a, fun port b v s t hport hwf hlow hhigh hb hb' hwrite => ?_⟩
  rw [busWrite_port hport, dataWrite_palette hlow hhigh] at hwrite
  cases hwrite
  rw [busRead_port hport, dataRead_palette hb hb', ← Memory.read_write hwf]
  exact ⟨_, rfl⟩

end Sys2Proof.Machine
end

section
/-! O22: the nametable arrangements. -/

namespace Sys2Proof.Machine

/-- The 0x1000 bytes from $3000 on are those from $2000 on under the mask 0x2FFF (R92). -/
theorem and_nametableMask {a : Addr} (h : 0x2000 ≤ a) (h' : a ≤ 0x3FFF) :
    (a &&& 0x2FFF).toNat = 0x2000 + a.toNat % 0x1000 := by
  rw [BitVec.toNat_and]
  exact and_windowMask (k := 12) h (Nat.lt_succ_of_le h') (by decide)

theorem mirrorVramAddr_eq (mir : Mirroring) {a : Addr} (h : 0x2000 ≤ a) (h' : a ≤ 0x3FFF) :
    mirrorVramAddr mir a =
      (ntMap mir (a.toNat % 0x1000 / 1024)).map fun phys => phys * 0x400 + a.toNat % 0x1000 % 1024 := by
  have hoff : ((a &&& 0x2FFF) - 0x2000).toNat = a.toNat % 0x1000 := by
    have hmask := and_nametableMask h h'
    bv_omega
  rw [mirrorVramAddr, hoff]

theorem mirrorVramAddr_sub_0x1000 (mir : Mirroring) {a : Addr} (h : 0x3000 ≤ a) (h' : a ≤ 0x3FFF) :
    mirrorVramAddr mir (a - 0x1000) = mirrorVramAddr mir a := by
  have hfold : (a - 0x1000).toNat % 0x1000 = a.toNat % 0x1000 := by bv_omega
  rw [mirrorVramAddr_eq mir (by bv_omega) (by bv_omega), mirrorVramAddr_eq mir (by bv_omega) h', hfold]

/-- The physical nametable of each arrangement as a formula in the logical one (R92). -/
theorem ntMap_eq {nt : Nat} (h : nt < 4) :
    ntMap .horizontal nt = some (nt / 2) ∧ ntMap .vertical nt = some (nt % 2) ∧
      ntMap .fourScreen nt = some nt := by
  interval_cases nt <;> exact ⟨rfl, rfl, rfl⟩

/-- With two physical nametables every index lies in `vram` (R92). -/
theorem mirrorVramAddr_lt {mir : Mirroring} (hmir : mir ≠ .fourScreen) {a : Addr} (h : 0x2000 ≤ a)
    (h' : a ≤ 0x3FFF) : ∃ k, mirrorVramAddr mir a = some k ∧ k < 2048 := by
  have hbase {b : Addr} (hb : 0x2000 ≤ b) (hb' : b ≤ 0x2FFF) :
      ∃ k, mirrorVramAddr mir b = some k ∧ k < 2048 := by
    obtain ⟨k, hk, hlt⟩ := mirrorVramAddr_of_nametable mir hb hb'
    exact ⟨k, hk, hlt.2 fun hfour => absurd hfour hmir⟩
  by_cases hlow : a ≤ 0x2FFF
  · exact hbase h hlow
  · rw [← mirrorVramAddr_sub_0x1000 mir (by bv_omega) h']
    exact hbase (by bv_omega) (by bv_omega)

/-- Settles O22: the formulas of `ntMap_eq` with the index split into nametable and offset, and the fold by
`mirrorVramAddr_sub_0x1000`. -/
theorem nametableMirroring : Obligations.NametableMirroring := by
  refine ⟨?_, fun mir a h h' => (mirrorVramAddr_sub_0x1000 mir h (by bv_omega)).symm,
    fun mir a hmir h h' => mirrorVramAddr_lt hmir h (by bv_omega)⟩
  intro a h h' i
  have hi : a.toNat % 0x1000 = i := by bv_omega
  have hlt : i < 0x1000 := hi ▸ Nat.mod_lt _ (by decide)
  have hformula {mir : Mirroring} {phys : Nat} (hphys : ntMap mir (i / 1024) = some phys) :
      mirrorVramAddr mir a = some (phys * 0x400 + i % 1024) := by
    rw [mirrorVramAddr_eq mir h (by bv_omega), hi, hphys, Option.map_some]
  obtain ⟨hhorizontal, hvertical, hfour⟩ := ntMap_eq (nt := i / 1024) (by omega)
  have hindex : mirrorVramAddr .fourScreen a = some i := (hformula hfour).trans (congrArg some (by omega))
  exact ⟨(hformula hhorizontal).trans (congrArg some (by omega)),
    (hformula hvertical).trans (congrArg some (by omega)), hindex, vramIndex_of_mirror hindex⟩

end Sys2Proof.Machine
end

section
/-! O25 to O28: reset, the launch state, and BRK. -/

namespace Sys2Proof.Machine

/-- The vector bytes of `reset` lie in PRG ROM, where a read changes nothing (R370). -/
theorem busReadWord_resetVector (s : State) :
    busReadWord 0xFFFC s = .ok (word (prgRead s.cart 0xFFFD) (prgRead s.cart 0xFFFC), s) := by
  have hlow : busRead 0xFFFC s = .ok (prgRead s.cart 0xFFFC, s) := busRead_rom (by decide)
  have hhigh : busRead (0xFFFC + 1) s = .ok (prgRead s.cart 0xFFFD, s) := busRead_rom (by decide)
  exact (wordReadIsTwoByteReads 0xFFFC 0x0000 s).1 _ _ _ _ hlow hhigh

theorem hostReset_of_not_fatal {s : State} (h : s.run = .running ∨ s.run = .halted) :
    hostReset s = .next (cpuReset s) := by
  rcases h with h | h <;> rw [hostReset, h]

/-- Settles O25: the vector is read off the bus without effect, and `cpuReset` is the answer. -/
theorem hostResetSetsCpuRegistersOnly : Obligations.HostResetSetsCpuRegistersOnly :=
  fun s h => ⟨_, busReadWord_resetVector s, hostReset_of_not_fatal h⟩

/-- Settles O26: PC holds the vector word that the bus reads; every other field is as `State.launch` writes it. -/
theorem launchStateIsTheInitialState : Obligations.LaunchStateIsTheInitialState :=
  fun _ _ _ _ _ _ => ⟨rfl, rfl, rfl, rfl, rfl, busReadWord_resetVector _, rfl, rfl, rfl, rfl, rfl, rfl, rfl,
    rfl, rfl, rfl, rfl, rfl, rfl, rfl, rfl⟩

/-- Settles O28: the default cartridge holds its vector, and the empty arrays are canonical. -/
theorem resetStateMeetsTheInvariants : Obligations.ResetStateMeetsTheInvariants :=
  ⟨by decide, by decide, by decide, rfl⟩

/-- Settles O27: BRK's own meaning, and the host's resume of the halted state it answers. -/
theorem brkHaltsAndTheHostMayResume : Obligations.BrkHaltsAndTheHostMayResume := by
  refine ⟨by decide, fun s => ⟨rfl, fun t h => ?_⟩⟩
  cases h
  rfl

end Sys2Proof.Machine
end

section
/-! O52: the immediate combinations. -/

namespace Sys2Proof.Machine

/-- Carry written after Z and N. -/
theorem SetsZN.putFlag_c {v p q : Byte} (h : SetsZN v p q) (c : Bool) : SetsCZN c v p (putFlag q .c c) := by
  obtain ⟨hz, hn, hkept⟩ := h
  refine ⟨?_, ?_, ?_, fun f hfc hfz hfn => ?_⟩ <;> rw [flag_putFlag]
  · rfl
  · exact hz
  · exact hn
  · rw [if_neg hfc, hkept f hfz hfn]

/-- Overflow written after carry, Z and N. -/
theorem SetsCZN.putFlag_v {c : Bool} {v p q : Byte} (h : SetsCZN c v p q) (o : Bool) :
    SetsCVZN c o v p (putFlag q .v o) := by
  obtain ⟨hc, hz, hn, hkept⟩ := h
  refine ⟨?_, ?_, ?_, ?_, fun f hfc hfv hfz hfn => ?_⟩ <;> rw [flag_putFlag]
  · exact hc
  · rfl
  · exact hz
  · exact hn
  · rw [if_neg hfv, hkept f hfc hfz hfn]

/-- Settles O52: each meaning as it stands, with the carry that ARR rotates in written as a sum. -/
theorem immediateCombinations : Obligations.ImmediateCombinations := by
  intro s opc m r
  have hr : (s.a &&& m) >>> 1 ||| carryByte s.p <<< 7 = r := ushiftRight_or_carryByte _ _
  simp only [exec, execArr, hr]
  refine ⟨⟨_, rfl, rfl, (setZN_setsZN _ _).putFlag_c _⟩, ⟨_, rfl, rfl, setZN_setFlag_setsCZN _ _ _⟩,
    ⟨_, rfl, rfl, ((setZN_setsZN _ _).putFlag_c _).putFlag_v _⟩, ⟨_, rfl, rfl, setZN_setFlag_setsCZN _ _ _⟩⟩

end Sys2Proof.Machine
end

section
/-! O53: LAS and the stores under the high byte of their address. -/

namespace Sys2Proof.Machine

/-- A store with SP written before it: neither the effective address nor the bus write depends on SP. -/
theorem storeInstr_withSp_of_writable {m : Operand} {s : State} (hm : m ≠ .acc) (h : OperandWritable m s)
    (v : Addr → Byte) (sp : Byte) :
    ∃ ea s1, resolve m s = .ok ea ∧ busWrite ea (v ea) s = .ok s1 ∧
      storeInstr m v { s with sp := sp } =
        .next { s1 with sp := sp, pc := s.pc + BitVec.ofNat 16 m.length } := by
  obtain ⟨ea, s1, hea, hwrite, -⟩ := storeInstr_of_writable hm h v
  have hea' : resolve m { s with sp := sp } = .ok ea := by
    rw [← hea]
    cases m <;> rfl
  have hwrite' : busWrite ea (v ea) { s with sp := sp } = .ok { s1 with sp := sp } := by
    rw [busWrite_withSp, hwrite]
    rfl
  refine ⟨ea, s1, hea, hwrite, storeInstr_next.2 ⟨ea, _, hea', hwrite', ?_⟩⟩
  rw [← (busWrite_sameControl hwrite).pc]
  rfl

/-- Settles O53: one operand read or one bus write each, by the shared shapes. -/
theorem lasAndHighByteStores : Obligations.LasAndHighByteStores := by
  intro m w s mask
  refine ⟨fun h => ?_, fun hwf h => ?_, fun h => ?_, fun h => ?_, fun h => ?_⟩
  · simp only [exec, execLas]
    exact readInstr_of_readable (m := .absy w) nofun h fun _ _ => ⟨rfl, setZN_setsZN _ _⟩
  · exact storeInstr_of_writable (ne_acc_of_wf rfl hwf) h _
  · exact storeInstr_of_writable (m := .absy w) nofun h _
  · exact storeInstr_of_writable (m := .absx w) nofun h _
  · exact storeInstr_withSp_of_writable (m := .absy w) nofun h _ _

end Sys2Proof.Machine
end
